-- ==== Sys2Proof/Word.lean ====
section
/-! DEFINITION. The widths of the values the block works on (rules R8 and R9): every one an unsigned bit vector whose bit 0
is the least significant bit. -/

namespace Sys2Proof

/-- One byte of the environment's record stream (rule R27). -/
abbrev Byte := BitVec 8

/-- A 12-bit value: the significant part of an instruction word, a match value, a mask, operand bits (rules R8, R46). -/
abbrev Word12 := BitVec 12

/-- The decoder's input word, and the environment's storage unit (rules R8, R33). -/
abbrev Word16 := BitVec 16

end Sys2Proof
end

