-- ==== Sys2Proof/Machine/Values.lean ====
section
/-! DEFINITION. The value types of the block and of its environment (rules R15 to R27): immutable values that the functions
take and return. -/

namespace Sys2Proof.Machine

/-- The identity of a table entry (rule R20, decision D19). The constructors stand in the table's declaration order, so a
constructor's position is the entry's index 0 to 32 (rule R91). -/
inductive OpcodeId where
  | addwf | andwf | clrf | clrw | comf | decf | decfsz | incf | incfsz | iorwf | movf
  | movwf | nop | rlf | rrf | subwf | swapf | xorwf | bcf | bsf | btfsc | btfss
  | andlw | call | clrwdt | goto | iorlw | movlw | option | retlw | sleep | tris | xorlw
  deriving DecidableEq, Repr, Inhabited

/-- A register-file number that the block accepts: 0 to 7 and 16 to 31; 8 to 15 are reserved (rules R16, R107). -/
def registerLegal (n : BitVec 5) : Bool := !(decide (8 ≤ n.toNat) && decide (n.toNat ≤ 15))

/-- A validated register index (rule R16): it cannot be built from 8 to 15. It is an operand value; the block holds no
such register (rule R13). -/
structure RegisterFile where
  number : BitVec 5
  legal : registerLegal number = true
  deriving DecidableEq, Repr

/-- The names of the register-file indices 0 to 7 (rule R16). -/
inductive RegisterName where
  | INDF | TMR0 | PCL | STATUS | FSR | OSCCAL | GPIO | CMCON0
  deriving DecidableEq, Repr

/-- The destination operand: the bit 0 selects the working register, 1 the file register (rule R23). -/
inductive Destination where
  | working | file
  deriving DecidableEq, Repr

/-- The TRIS selector operand: 6 is GPIO, 7 is CMCON0 (rule R23). -/
inductive TrisSelector where
  | GPIO | CMCON0
  deriving DecidableEq, Repr

/-- The seven operand shape tags (rule R22, conflict C1). -/
inductive OperandShape where
  | noOperands | file | fileAndDestination | fileAndBitNumber | literal | goto | tris
  deriving DecidableEq, Repr

/-- A decoded operand: a tagged union of range-checked values (rule R23). -/
inductive Operand where
  | noOperands
  | file (register : RegisterFile)
  | fileAndDestination (register : RegisterFile) (destination : Destination)
  | fileAndBitNumber (register : RegisterFile) (bit : BitVec 3)
  | literal (byte : BitVec 8)
  | goto (address : BitVec 9)
  | tris (selector : TrisSelector)
  deriving DecidableEq, Repr

/-- A set of status flags (rule R15). The spec fixes seven identifiers and neither an order nor a bit number (note N3), so
the set is one Bool per identifier. -/
structure StatusFlags where
  carry : Bool
  digitCarry : Bool
  zero : Bool
  notPowerDown : Bool
  notTimeOut : Bool
  comparatorWakeUp : Bool
  gpioReset : Bool
  deriving DecidableEq, Repr, Inhabited

/-- The compiled form of a pattern string (rule R21). `opcode` is the match value, not the table entry. -/
structure BitPattern where
  opcode : Word12
  mask : Word12
  operandShape : OperandShape
  deriving DecidableEq, Repr

/-- A table entry (rule R20): `id` is its identity, `cycles` and `statusBits` are metadata that no function reads. -/
structure Opcode where
  id : OpcodeId
  name : String
  bitPattern : BitPattern
  cycles : Nat
  statusBits : StatusFlags
  deriving DecidableEq, Repr

/-- The result of a successful decode (rules R24, R132): the matched entry's identity and its operand. -/
structure Instruction where
  opcode : OpcodeId
  operands : Operand
  deriving DecidableEq, Repr

/-- The errors of `decode`, each with the offending raw value (rules R198 to R200, decision D11). -/
inductive DecodeError where
  /-- The 12-bit value that no table entry accepts (rules R128, R198). -/
  | unknownOpcode (value : Word12)
  /-- The register number, 8 to 15 (rules R107, R199). -/
  | invalidRegister (number : BitVec 5)
  /-- The selector, not 6 or 7 (rules R114, R200). -/
  | invalidTrisSelector (selector : BitVec 3)
  deriving DecidableEq, Repr

/-- The errors of `compile` (rules R83, R201, decision D7). -/
inductive PatternError where
  /-- The leftmost character outside the alphabet (rule R73). -/
  | badCharacter (c : Char)
  /-- The length of an opcode field that is empty or longer than 12 (rule R76). -/
  | badOpcodeLength (n : Nat)
  /-- The characters after the opcode field, when they are no shape string (rule R78). -/
  | unknownShape (residual : List Char)
  /-- The opcode field's length and the shape, when they do not fill 12 bits (rule R81). -/
  | widthMismatch (n : Nat) (tag : OperandShape)
  deriving DecidableEq, Repr

/-- The errors of `assemble` (rules R192, R202). `record` is the 0-based index of the record in the input (rule R193). -/
inductive AssembleError where
  | unalignedAddress (record : Nat) (address : Word16)
  | oddByteCount (record : Nat) (length : Nat)
  | badConfigWordLength (record : Nat) (length : Nat)
  | addressOutOfRange (record : Nat) (address : Nat)
  | unsupportedAddressExtension (record : Nat) (upper : Word16)
  | trailingDataAfterEndOfFile (record : Nat)
  | unsupportedRecordKind (record : Nat)
  /-- A decoder error, kind and payload unchanged, with the record's position added (rule R185). -/
  | decoder (error : DecodeError) (record : Nat)
  deriving DecidableEq, Repr

/-- One record of the environment's input (rule R27). -/
inductive InputRecord where
  | data (address : Word16) (bytes : List Byte)
  | endOfFile
  | extendedLinearAddress (upper : Word16)
  | startSegmentAddress
  | extendedSegmentAddress
  | startLinearAddress
  deriving DecidableEq, Repr

/-- One record of a program listing (rule R26). -/
inductive ProgramRecord where
  | config (word : Word16)
  | statement (address : BitVec 8) (instruction : Instruction)
  deriving DecidableEq, Repr

/-- A program listing: its records in the order they were emitted (rules R26, R189). -/
abbrev Program := List ProgramRecord

/-- The name of a register-file number, where it has one; 16 to 31 have none (rule R16). -/
def registerName (r : RegisterFile) : Option RegisterName :=
  match r.number.toNat with
  | 0 => some .INDF
  | 1 => some .TMR0
  | 2 => some .PCL
  | 3 => some .STATUS
  | 4 => some .FSR
  | 5 => some .OSCCAL
  | 6 => some .GPIO
  | 7 => some .CMCON0
  | _ => none

/-- The shape whose codec makes an operand value (the last column of rule R22). -/
def operandShapeOf : Operand → OperandShape
  | .noOperands => .noOperands
  | .file _ => .file
  | .fileAndDestination _ _ => .fileAndDestination
  | .fileAndBitNumber _ _ => .fileAndBitNumber
  | .literal _ => .literal
  | .goto _ => .goto
  | .tris _ => .tris

/-- The number of operand bits of a shape (rule R22). -/
def shapeWidth : OperandShape → Nat
  | .noOperands => 0
  | .file => 5
  | .fileAndDestination => 6
  | .fileAndBitNumber => 8
  | .literal => 8
  | .goto => 9
  | .tris => 3

/-- The code of a decoder error (rule R197). -/
def decodeErrorCode : DecodeError → Nat
  | .unknownOpcode _ => 1
  | .invalidRegister _ => 2
  | .invalidTrisSelector _ => 3

/-- The code of a pattern error (rule R197). -/
def patternErrorCode : PatternError → Nat
  | .badCharacter _ => 4
  | .badOpcodeLength _ => 4
  | .unknownShape _ => 4
  | .widthMismatch _ _ => 4

/-- The code of an assembler error; a decoder error keeps its own (rules R185, R197). -/
def assembleErrorCode : AssembleError → Nat
  | .unalignedAddress _ _ => 5
  | .oddByteCount _ _ => 6
  | .badConfigWordLength _ _ => 7
  | .addressOutOfRange _ _ => 8
  | .unsupportedAddressExtension _ _ => 9
  | .trailingDataAfterEndOfFile _ => 10
  | .unsupportedRecordKind _ => 11
  | .decoder e _ => decodeErrorCode e

/-- The record position an assembler error carries (rule R193). -/
def assembleErrorRecord : AssembleError → Nat
  | .unalignedAddress r _ => r
  | .oddByteCount r _ => r
  | .badConfigWordLength r _ => r
  | .addressOutOfRange r _ => r
  | .unsupportedAddressExtension r _ => r
  | .trailingDataAfterEndOfFile r => r
  | .unsupportedRecordKind r => r
  | .decoder _ r => r

end Sys2Proof.Machine
end

