-- ==== Sys2Proof/Machine/Operands.lean ====
section
/-! DEFINITION. The operand fields (rule R55) and the six operand codecs, decode and encode (42_operand_codecs.md, rules R106
to R120). -/

namespace Sys2Proof.Machine

/-- The register number, bits 4:0 (rule R55). -/
def registerField (ob : Word12) : BitVec 5 := ob.extractLsb' 0 5

/-- The destination bit, bit 5 (rule R55). -/
def destinationField (ob : Word12) : BitVec 1 := ob.extractLsb' 5 1

/-- The bit index, bits 7:5 (rule R55). -/
def bitIndexField (ob : Word12) : BitVec 3 := ob.extractLsb' 5 3

/-- The literal byte, bits 7:0 (rule R55). -/
def literalField (ob : Word12) : BitVec 8 := ob.extractLsb' 0 8

/-- The branch address, bits 8:0 (rule R55). -/
def addressField (ob : Word12) : BitVec 9 := ob.extractLsb' 0 9

/-- The TRIS selector, bits 2:0 (rule R55). -/
def selectorField (ob : Word12) : BitVec 3 := ob.extractLsb' 0 3

/-- `regfile(n)` (rule R107): the register, or `InvalidRegister` for 8 to 15. -/
def regfile (n : BitVec 5) : Except DecodeError RegisterFile :=
  if h : registerLegal n = true then .ok ⟨n, h⟩ else .error (.invalidRegister n)

/-- The destination that a bit selects (rule R110). -/
def destinationOf (d : BitVec 1) : Destination := if d = 0#1 then .working else .file

/-- The File operand of a register number (rule R109). -/
def fileOperand (f : BitVec 5) : Except DecodeError Operand :=
  match regfile f with
  | .ok r => .ok (.file r)
  | .error e => .error e

/-- The FileAndDestination operand of its two fields; the register is validated whatever the destination is (rule R110). -/
def fileAndDestinationOperand (d : BitVec 1) (f : BitVec 5) : Except DecodeError Operand :=
  match regfile f with
  | .ok r => .ok (.fileAndDestination r (destinationOf d))
  | .error e => .error e

/-- The FileAndBitNumber operand of its two fields; every bit index is legal (rule R111). -/
def fileAndBitNumberOperand (b : BitVec 3) (f : BitVec 5) : Except DecodeError Operand :=
  match regfile f with
  | .ok r => .ok (.fileAndBitNumber r b)
  | .error e => .error e

/-- The Tris operand of a selector: 6 is GPIO, 7 is CMCON0, anything else `InvalidTrisSelector` (rule R114). -/
def trisOperand (s : BitVec 3) : Except DecodeError Operand :=
  if s = 6#3 then .ok (.tris .GPIO)
  else if s = 7#3 then .ok (.tris .CMCON0)
  else .error (.invalidTrisSelector s)

/-- `File.decode` (rule R109). -/
def fileDecode (ob : Word12) : Except DecodeError Operand := fileOperand (registerField ob)

/-- `FileAndDestination.decode` (rule R110). -/
def fileAndDestinationDecode (ob : Word12) : Except DecodeError Operand :=
  fileAndDestinationOperand (destinationField ob) (registerField ob)

/-- `FileAndBitNumber.decode` (rule R111). -/
def fileAndBitNumberDecode (ob : Word12) : Except DecodeError Operand :=
  fileAndBitNumberOperand (bitIndexField ob) (registerField ob)

/-- `Literal.decode` (rule R112). -/
def literalDecode (ob : Word12) : Except DecodeError Operand := .ok (.literal (literalField ob))

/-- `Goto.decode` (rule R113): no address is refused. -/
def gotoDecode (ob : Word12) : Except DecodeError Operand := .ok (.goto (addressField ob))

/-- `Tris.decode` (rule R114). -/
def trisDecode (ob : Word12) : Except DecodeError Operand := trisOperand (selectorField ob)

/-- The codec of a shape (rule R130); NoOperands has none and its operand needs no bits (rule R108). -/
def codecDecode : OperandShape → Word12 → Except DecodeError Operand
  | .noOperands, _ => .ok .noOperands
  | .file, ob => fileDecode ob
  | .fileAndDestination, ob => fileAndDestinationDecode ob
  | .fileAndBitNumber, ob => fileAndBitNumberDecode ob
  | .literal, ob => literalDecode ob
  | .goto, ob => gotoDecode ob
  | .tris, ob => trisDecode ob

/-- The operand bits of an operand value, every bit above the field 0 (rules R115, R116). -/
def codecEncode : Operand → Word12
  | .noOperands => 0#12
  | .file r => r.number.setWidth 12
  | .fileAndDestination r .working => r.number.setWidth 12
  | .fileAndDestination r .file => 0x020#12 ||| r.number.setWidth 12
  | .fileAndBitNumber r b => (b.setWidth 12 <<< 5) ||| r.number.setWidth 12
  | .literal k => k.setWidth 12
  | .goto a => a.setWidth 12
  | .tris .GPIO => 0x006#12
  | .tris .CMCON0 => 0x007#12

end Sys2Proof.Machine
end

