-- ==== Sys2Proof/Config.lean ====
section
/-! DEFINITION. What is fixed for the machine and not changed by a step: the open parameters of the spec (92_eei_decisions.md,
"Named open parameters") and the free values of output ports that are not valid. The opcode table is the third constant;
it is made by the pattern compiler and so stands in Machine/Table.lean. -/

namespace Sys2Proof.Config

/-- The whitespace set `WS` of the pattern language: space, tab, line feed, carriage return. DESIGN CHOICE of the spec
(decision D6, assumption 9), safe: every shipped pattern uses the space only. -/
def whitespace : List Char := [' ', '\t', '\n', '\r']

/-- How many cycles an entry takes beyond the default of one (rules R20, R61, decision D8). Uninterpreted: no proof can use
its value (assumption 7). -/
opaque extraCycles : Machine.OpcodeId → Nat

/-- The status flags attached to an entry (rules R15, R61, decision D9). Uninterpreted: no proof can use its value
(assumption 7). -/
opaque statusBits : Machine.OpcodeId → Machine.StatusFlags

/-- The diagnostic rendering of an instruction (rule R66, decision D22). Uninterpreted, and read by nothing (assumption 18). -/
opaque render : Machine.Instruction → String

/-- What `opcode_o` carries where it is not valid (rule R138, treatment U7; assumption 6). Like every output it is a
function of the word on `word_i` (rule R223); the first argument is `State.freeIndex`. -/
opaque freeOpcode : Nat → Word16 → BitVec 6

/-- What `shape_o` carries where it is not valid (rule R138, U7; assumption 6). -/
opaque freeShape : Nat → Word16 → BitVec 3

/-- What `reg_o` carries where it is not valid (rule R138, U7; assumption 6). -/
opaque freeReg : Nat → Word16 → BitVec 5

/-- What `dest_o` carries where it is not valid (rule R138, U7; assumption 6). -/
opaque freeDest : Nat → Word16 → BitVec 1

/-- What `bit_o` carries where it is not valid (rule R138, U7; assumption 6). -/
opaque freeBit : Nat → Word16 → BitVec 3

/-- What `literal_o` carries where it is not valid (rule R138, U7; assumption 6). -/
opaque freeLiteral : Nat → Word16 → BitVec 8

/-- What `address_o` carries where it is not valid (rule R138, U7; assumption 6). -/
opaque freeAddress : Nat → Word16 → BitVec 9

/-- What `tris_o` carries where it is not valid (rule R138, U7; assumption 6). -/
opaque freeTris : Nat → Word16 → BitVec 1

/-- What `errval_o` carries where it is not valid (rule R138, U7; assumption 6). -/
opaque freeErrval : Nat → Word16 → BitVec 12

end Sys2Proof.Config
end

