-- ==== Sys2Proof/Machine/PatternCompiler.lean ====
section
/-! DEFINITION. The bit-pattern compiler `compile` (40_pattern_compiler.md, rules R71 to R89). It runs when the table is
built and is not an operation of the running block (rule R85). -/

namespace Sys2Proof.Machine

/-- The six characters of the pattern language besides whitespace (rule R72). Upper case is outside it (decision D20). -/
def patternAlphabet : List Char := ['0', '1', 'b', 'd', 'f', 'k']

/-- `strip(pattern)`: the pattern without the characters of `ws` (rule R74). -/
def stripPattern (ws pattern : List Char) : List Char := pattern.filter fun c => !ws.contains c

/-- The leftmost character outside the alphabet (rule R73). -/
def firstBadCharacter (s : List Char) : Option Char := s.find? fun c => !patternAlphabet.contains c

/-- Whether a character belongs to the opcode field (rule R75). -/
def isOpcodeDigit (c : Char) : Bool := c == '0' || c == '1'

/-- The leading run of `0` and `1` characters (rule R75). -/
def opcodeField (s : List Char) : List Char := s.takeWhile isOpcodeDigit

/-- The characters after the opcode field (rules R75, R78). -/
def residualOf (s : List Char) : List Char := s.dropWhile isOpcodeDigit

/-- The accumulation of rule R77, on unbounded integers: the match value's digits and a mask of as many ones. -/
def accumulateOpcode : Nat × Nat → List Char → Nat × Nat
  | acc, [] => acc
  | (op, mask), c :: rest => accumulateOpcode (2 * op + (if c = '1' then 1 else 0), 2 * mask + 1) rest

/-- The shape strings of rule R78. -/
def shapeLetters : OperandShape → List Char
  | .noOperands => []
  | .file => ['f', 'f', 'f', 'f', 'f']
  | .fileAndDestination => ['d', 'f', 'f', 'f', 'f', 'f']
  | .fileAndBitNumber => ['b', 'b', 'b', 'f', 'f', 'f', 'f', 'f']
  | .literal => ['k', 'k', 'k', 'k', 'k', 'k', 'k', 'k']
  | .goto => ['k', 'k', 'k', 'k', 'k', 'k', 'k', 'k', 'k']
  | .tris => ['f', 'f', 'f']

/-- The seven shapes, in the order rule R78 lists them. -/
def allShapes : List OperandShape :=
  [.noOperands, .file, .fileAndDestination, .fileAndBitNumber, .literal, .goto, .tris]

/-- The shape whose string is exactly the residual; nothing is inferred from a length (rules R78, R80). -/
def shapeOfResidual (residual : List Char) : Option OperandShape :=
  allShapes.find? fun tag => shapeLetters tag == residual

/-- The checks and the result after whitespace is removed, in the order of rule R83: character, opcode length, shape,
width; then the left shift of rule R79. -/
def compileStripped (s : List Char) : Except PatternError BitPattern :=
  match firstBadCharacter s with
  | some c => .error (.badCharacter c)
  | none =>
    let field := opcodeField s
    let n := field.length
    if n = 0 ∨ 12 < n then .error (.badOpcodeLength n)
    else
      match shapeOfResidual (residualOf s) with
      | none => .error (.unknownShape (residualOf s))
      | some tag =>
        if n + shapeWidth tag = 12 then
          let acc := accumulateOpcode (0, 0) field
          .ok ⟨BitVec.ofNat 12 (acc.1 * 2 ^ (12 - n)), BitVec.ofNat 12 (acc.2 * 2 ^ (12 - n)), tag⟩
        else .error (.widthMismatch n tag)

/-- `compile` with the whitespace set as an argument (rule R83, parameter `WS`), on the pattern's characters. -/
def compileWith (ws pattern : List Char) : Except PatternError BitPattern := compileStripped (stripPattern ws pattern)

/-- `compile(pattern)` (rules R71, R83). -/
def compile (pattern : String) : Except PatternError BitPattern := compileWith Config.whitespace pattern.toList

/-- The three invariants of a BitPattern (rule R21): no match bit outside the mask, as many operand bits as the shape is
wide, and a mask that is one run of ones from bit 11 down. -/
def bitPatternWf (bp : BitPattern) : Bool :=
  bp.opcode &&& ~~~bp.mask == 0#12 &&
  (bp.mask == BitVec.ofNat 12 ((2 ^ (12 - shapeWidth bp.operandShape) - 1) * 2 ^ shapeWidth bp.operandShape))

end Sys2Proof.Machine
end

