-- ==== Sys2Proof/Machine/Table.lean ====
section
/-! DEFINITION. The opcode table and its matcher (41_opcode_table_and_match.md, rules R91 to R101), with the patterns of rule
R60. The table is a constant of the design (rules R18, R221), so it is a definition and not a field of State. -/

namespace Sys2Proof.Machine

/-- The table declaration order (rule R91). It decides which entry wins a tie (rules R95, R227; assumption 11). -/
def declarationOrder : List OpcodeId :=
  [.addwf, .andwf, .clrf, .clrw, .comf, .decf, .decfsz, .incf, .incfsz, .iorwf, .movf,
   .movwf, .nop, .rlf, .rrf, .subwf, .swapf, .xorwf, .bcf, .bsf, .btfsc, .btfss,
   .andlw, .call, .clrwdt, .goto, .iorlw, .movlw, .option, .retlw, .sleep, .tris, .xorlw]

/-- The index 0 to 32 of an entry (rule R91). -/
def opcodeIndex (id : OpcodeId) : Nat := declarationOrder.idxOf id

/-- The lower-case name of an entry (rules R2, R20). -/
def opcodeName : OpcodeId → String
  | .addwf => "addwf"
  | .andwf => "andwf"
  | .clrf => "clrf"
  | .clrw => "clrw"
  | .comf => "comf"
  | .decf => "decf"
  | .decfsz => "decfsz"
  | .incf => "incf"
  | .incfsz => "incfsz"
  | .iorwf => "iorwf"
  | .movf => "movf"
  | .movwf => "movwf"
  | .nop => "nop"
  | .rlf => "rlf"
  | .rrf => "rrf"
  | .subwf => "subwf"
  | .swapf => "swapf"
  | .xorwf => "xorwf"
  | .bcf => "bcf"
  | .bsf => "bsf"
  | .btfsc => "btfsc"
  | .btfss => "btfss"
  | .andlw => "andlw"
  | .call => "call"
  | .clrwdt => "clrwdt"
  | .goto => "goto"
  | .iorlw => "iorlw"
  | .movlw => "movlw"
  | .option => "option"
  | .retlw => "retlw"
  | .sleep => "sleep"
  | .tris => "tris"
  | .xorlw => "xorlw"

/-- The pattern string of an entry (rule R60). Five are pinned by the source and 28 are PRESUMED (the spec's general knowledge
GK1, decision D3; assumption 8). -/
def opcodePattern : OpcodeId → String
  | .addwf => "0001 11df ffff"
  | .andwf => "0001 01df ffff"
  | .clrf => "0000 011f ffff"
  | .clrw => "0000 0100 0000"
  | .comf => "0010 01df ffff"
  | .decf => "0000 11df ffff"
  | .decfsz => "0010 11df ffff"
  | .incf => "0010 10df ffff"
  | .incfsz => "0011 11df ffff"
  | .iorwf => "0001 00df ffff"
  | .movf => "0010 00df ffff"
  | .movwf => "0000 001f ffff"
  | .nop => "0000 0000 0000"
  | .rlf => "0011 01df ffff"
  | .rrf => "0011 00df ffff"
  | .subwf => "0000 10df ffff"
  | .swapf => "0011 10df ffff"
  | .xorwf => "0001 10df ffff"
  | .bcf => "0100 bbbf ffff"
  | .bsf => "0101 bbbf ffff"
  | .btfsc => "0110 bbbf ffff"
  | .btfss => "0111 bbbf ffff"
  | .andlw => "1110 kkkk kkkk"
  | .call => "1001 kkkk kkkk"
  | .clrwdt => "0000 0000 0100"
  | .goto => "101k kkkk kkkk"
  | .iorlw => "1101 kkkk kkkk"
  | .movlw => "1100 kkkk kkkk"
  | .option => "0000 0000 0010"
  | .retlw => "1000 kkkk kkkk"
  | .sleep => "0000 0000 0011"
  | .tris => "0000 0000 0fff"
  | .xorlw => "1111 kkkk kkkk"

/-- The match value, mask and shape that rule R60 lists for an entry, as literal data (rule R92 allows it). That each is what
`compile` makes of the entry's pattern string is stated: `Obligations.ShippedPatternsCompile` (rules R85, R225). -/
def opcodeBitPattern : OpcodeId → BitPattern
  | .addwf => ⟨0x1C0#12, 0xFC0#12, .fileAndDestination⟩
  | .andwf => ⟨0x140#12, 0xFC0#12, .fileAndDestination⟩
  | .clrf => ⟨0x060#12, 0xFE0#12, .file⟩
  | .clrw => ⟨0x040#12, 0xFFF#12, .noOperands⟩
  | .comf => ⟨0x240#12, 0xFC0#12, .fileAndDestination⟩
  | .decf => ⟨0x0C0#12, 0xFC0#12, .fileAndDestination⟩
  | .decfsz => ⟨0x2C0#12, 0xFC0#12, .fileAndDestination⟩
  | .incf => ⟨0x280#12, 0xFC0#12, .fileAndDestination⟩
  | .incfsz => ⟨0x3C0#12, 0xFC0#12, .fileAndDestination⟩
  | .iorwf => ⟨0x100#12, 0xFC0#12, .fileAndDestination⟩
  | .movf => ⟨0x200#12, 0xFC0#12, .fileAndDestination⟩
  | .movwf => ⟨0x020#12, 0xFE0#12, .file⟩
  | .nop => ⟨0x000#12, 0xFFF#12, .noOperands⟩
  | .rlf => ⟨0x340#12, 0xFC0#12, .fileAndDestination⟩
  | .rrf => ⟨0x300#12, 0xFC0#12, .fileAndDestination⟩
  | .subwf => ⟨0x080#12, 0xFC0#12, .fileAndDestination⟩
  | .swapf => ⟨0x380#12, 0xFC0#12, .fileAndDestination⟩
  | .xorwf => ⟨0x180#12, 0xFC0#12, .fileAndDestination⟩
  | .bcf => ⟨0x400#12, 0xF00#12, .fileAndBitNumber⟩
  | .bsf => ⟨0x500#12, 0xF00#12, .fileAndBitNumber⟩
  | .btfsc => ⟨0x600#12, 0xF00#12, .fileAndBitNumber⟩
  | .btfss => ⟨0x700#12, 0xF00#12, .fileAndBitNumber⟩
  | .andlw => ⟨0xE00#12, 0xF00#12, .literal⟩
  | .call => ⟨0x900#12, 0xF00#12, .literal⟩
  | .clrwdt => ⟨0x004#12, 0xFFF#12, .noOperands⟩
  | .goto => ⟨0xA00#12, 0xE00#12, .goto⟩
  | .iorlw => ⟨0xD00#12, 0xF00#12, .literal⟩
  | .movlw => ⟨0xC00#12, 0xF00#12, .literal⟩
  | .option => ⟨0x002#12, 0xFFF#12, .noOperands⟩
  | .retlw => ⟨0x800#12, 0xF00#12, .literal⟩
  | .sleep => ⟨0x003#12, 0xFFF#12, .noOperands⟩
  | .tris => ⟨0x000#12, 0xFF8#12, .tris⟩
  | .xorlw => ⟨0xF00#12, 0xF00#12, .literal⟩

/-- The table entry of an identity. Its metadata is uninterpreted, and `cycles` is at least 1 (rules R20, R61; assumption 7). -/
def entryOf (id : OpcodeId) : Opcode :=
  ⟨id, opcodeName id, opcodeBitPattern id, 1 + Config.extraCycles id, Config.statusBits id⟩

/-- `TABLE` (rules R18, R60, R91): the 33 entries in declaration order. -/
def TABLE : List Opcode := declarationOrder.map entryOf

/-- Builds table entries from pattern strings; a string that does not compile ends the construction (rules R92, R222). The spec
lets the strings be compiled in any order, so which error is reported when several fail is open: reporting that of the first
failing string in the list is a DESIGN CHOICE, safe (assumption 23). -/
def elaborateTable : List (OpcodeId × String) → Except PatternError (List Opcode)
  | [] => .ok []
  | (id, pattern) :: rest =>
    match compile pattern with
    | .error e => .error e
    | .ok bp =>
      match elaborateTable rest with
      | .error e => .error e
      | .ok entries => .ok ({ entryOf id with bitPattern := bp } :: entries)

/-- The 33 literal pattern strings with their identities, in declaration order (rules R60, R92). -/
def tableSource : List (OpcodeId × String) := declarationOrder.map fun id => (id, opcodePattern id)

/-- Whether an entry's pattern accepts a word: `(w & mask) == (opcode & mask)` (rules R93, R94). -/
def accepts (bp : BitPattern) (w : Word12) : Bool := w &&& bp.mask == bp.opcode &&& bp.mask

/-- `match(w)` for a table given as an argument (rule R93): the first entry, in the table's order, that accepts `w`. -/
def matchIn (table : List Opcode) (w : Word12) : Option Opcode := table.find? fun op => accepts op.bitPattern w

/-- `match(w)` for the shipped table (rule R93). -/
def matchOpcode (w : Word12) : Option Opcode := matchIn TABLE w

/-- `byName(name)` for a table given as an argument: exact equality of names (rule R99, decision D14). -/
def byNameIn (table : List Opcode) (name : String) : Option Opcode := table.find? fun op => op.name == name

/-- `byName(name)` for the shipped table (rule R99). -/
def byName (name : String) : Option Opcode := byNameIn TABLE name

end Sys2Proof.Machine
end

