-- ==== Sys2Proof/Machine/Decoder.lean ====
section
/-! DEFINITION. The instruction decoder as the one function of rule R133, and its inverse (43_instruction_decoder.md, rules
R126 to R136). The machine's step reaches the same results opcode by opcode, through Decode.lean and exec. -/

namespace Sys2Proof.Machine

/-- Step 1, `w = word & 0x0FFF`: bits 15 to 12 have no influence (rule R127). -/
def significantBits (word : Word16) : Word12 := word.extractLsb' 0 12

/-- Step 3, `ob = w & ~mask` in 12 bits (rule R129). -/
def operandBits (bp : BitPattern) (w : Word12) : Word12 := w &&& ~~~bp.mask

/-- `decode(word)` for a table given as an argument (rules R126 to R133). -/
def decodeIn (table : List Opcode) (word : Word16) : Except DecodeError Instruction :=
  match matchIn table (significantBits word) with
  | none => .error (.unknownOpcode (significantBits word))
  | some op =>
    match codecDecode op.bitPattern.operandShape (operandBits op.bitPattern (significantBits word)) with
    | .error e => .error e
    | .ok operands => .ok ⟨op.id, operands⟩

/-- `decode(word)` for the shipped table (rule R133). -/
def decode (word : Word16) : Except DecodeError Instruction := decodeIn TABLE word

/-- `encodeInstr(i) = op.bitPattern.opcode | encode(operands)` (rule R134). -/
def encodeInstr (i : Instruction) : Word12 := (entryOf i.opcode).bitPattern.opcode ||| codecEncode i.operands

/-- Whether the operand's variant agrees with its opcode's shape (rule R24). -/
def instructionWf (i : Instruction) : Bool := (entryOf i.opcode).bitPattern.operandShape == operandShapeOf i.operands

end Sys2Proof.Machine
end

