-- ==== Sys2Proof/Syntax.lean ====
section
/-! DEFINITION. The syntax: one constructor per row of the opcode table (rules R60, R91), in the table's declaration order.
A term holds the matched opcode and the operand fields exactly as they stand in the word (rule R55): which field values are
legal is for WellFormed and for the operand codecs. -/

namespace Sys2Proof

/-- An instruction word once its table entry is known. Each constructor's fields are the operand fields of its format, most
significant field first: `d` destination bit, `b` bit index, `f` register number (for `tris`, the selector), `k` literal
byte or branch address (rules R47 to R55). -/
inductive Instr where
  /-- Table index 0, pattern `0001 11df ffff` (rule R141). -/
  | addwf (d : BitVec 1) (f : BitVec 5)
  /-- Table index 1, pattern `0001 01df ffff` (rule R142). -/
  | andwf (d : BitVec 1) (f : BitVec 5)
  /-- Table index 2, pattern `0000 011f ffff` (rule R143). -/
  | clrf (f : BitVec 5)
  /-- Table index 3, pattern `0000 0100 0000` (rule R144). -/
  | clrw
  /-- Table index 4, pattern `0010 01df ffff` (rule R145). -/
  | comf (d : BitVec 1) (f : BitVec 5)
  /-- Table index 5, pattern `0000 11df ffff` (rule R146). -/
  | decf (d : BitVec 1) (f : BitVec 5)
  /-- Table index 6, pattern `0010 11df ffff` (rule R147). -/
  | decfsz (d : BitVec 1) (f : BitVec 5)
  /-- Table index 7, pattern `0010 10df ffff` (rule R148). -/
  | incf (d : BitVec 1) (f : BitVec 5)
  /-- Table index 8, pattern `0011 11df ffff` (rule R149). -/
  | incfsz (d : BitVec 1) (f : BitVec 5)
  /-- Table index 9, pattern `0001 00df ffff` (rule R150). -/
  | iorwf (d : BitVec 1) (f : BitVec 5)
  /-- Table index 10, pattern `0010 00df ffff` (rule R151). -/
  | movf (d : BitVec 1) (f : BitVec 5)
  /-- Table index 11, pattern `0000 001f ffff` (rule R152). -/
  | movwf (f : BitVec 5)
  /-- Table index 12, pattern `0000 0000 0000` (rule R153). -/
  | nop
  /-- Table index 13, pattern `0011 01df ffff` (rule R154). -/
  | rlf (d : BitVec 1) (f : BitVec 5)
  /-- Table index 14, pattern `0011 00df ffff` (rule R155). -/
  | rrf (d : BitVec 1) (f : BitVec 5)
  /-- Table index 15, pattern `0000 10df ffff` (rule R156). -/
  | subwf (d : BitVec 1) (f : BitVec 5)
  /-- Table index 16, pattern `0011 10df ffff` (rule R157). -/
  | swapf (d : BitVec 1) (f : BitVec 5)
  /-- Table index 17, pattern `0001 10df ffff` (rule R158). -/
  | xorwf (d : BitVec 1) (f : BitVec 5)
  /-- Table index 18, pattern `0100 bbbf ffff` (rule R159). -/
  | bcf (b : BitVec 3) (f : BitVec 5)
  /-- Table index 19, pattern `0101 bbbf ffff` (rule R160). -/
  | bsf (b : BitVec 3) (f : BitVec 5)
  /-- Table index 20, pattern `0110 bbbf ffff` (rule R161). -/
  | btfsc (b : BitVec 3) (f : BitVec 5)
  /-- Table index 21, pattern `0111 bbbf ffff` (rule R162). -/
  | btfss (b : BitVec 3) (f : BitVec 5)
  /-- Table index 22, pattern `1110 kkkk kkkk` (rule R163). -/
  | andlw (k : BitVec 8)
  /-- Table index 23, pattern `1001 kkkk kkkk` (rule R164). -/
  | call (k : BitVec 8)
  /-- Table index 24, pattern `0000 0000 0100` (rule R165). -/
  | clrwdt
  /-- Table index 25, pattern `101k kkkk kkkk` (rule R166). -/
  | goto (k : BitVec 9)
  /-- Table index 26, pattern `1101 kkkk kkkk` (rule R167). -/
  | iorlw (k : BitVec 8)
  /-- Table index 27, pattern `1100 kkkk kkkk` (rule R168). -/
  | movlw (k : BitVec 8)
  /-- Table index 28, pattern `0000 0000 0010` (rule R169). -/
  | option
  /-- Table index 29, pattern `1000 kkkk kkkk` (rule R170). -/
  | retlw (k : BitVec 8)
  /-- Table index 30, pattern `0000 0000 0011` (rule R171). -/
  | sleep
  /-- Table index 31, pattern `0000 0000 0fff` (rule R172). -/
  | tris (f : BitVec 3)
  /-- Table index 32, pattern `1111 kkkk kkkk` (rule R173). -/
  | xorlw (k : BitVec 8)
  deriving DecidableEq, Repr

end Sys2Proof
end

