-- ==== Sys2Proof/WellFormed.lean ====
section
/-! DEFINITION. Which terms of the syntax stand for an instruction that decodes without an error: those whose operand fields
pass the checks of rule R23. There are two checks, the register number and the TRIS selector; every other field value is
legal. -/

namespace Sys2Proof

/-- The selectors of tris that exist: 6 and 7 (rules R23, R114). -/
def selectorLegal (s : BitVec 3) : Bool := s == 6#3 || s == 7#3

/-- The operand fields of an instruction are legal (rules R16, R23). -/
def wellFormed : Instr → Bool
  | .addwf _ f => Machine.registerLegal f
  | .andwf _ f => Machine.registerLegal f
  | .clrf f => Machine.registerLegal f
  | .clrw => true
  | .comf _ f => Machine.registerLegal f
  | .decf _ f => Machine.registerLegal f
  | .decfsz _ f => Machine.registerLegal f
  | .incf _ f => Machine.registerLegal f
  | .incfsz _ f => Machine.registerLegal f
  | .iorwf _ f => Machine.registerLegal f
  | .movf _ f => Machine.registerLegal f
  | .movwf f => Machine.registerLegal f
  | .nop => true
  | .rlf _ f => Machine.registerLegal f
  | .rrf _ f => Machine.registerLegal f
  | .subwf _ f => Machine.registerLegal f
  | .swapf _ f => Machine.registerLegal f
  | .xorwf _ f => Machine.registerLegal f
  | .bcf _ f => Machine.registerLegal f
  | .bsf _ f => Machine.registerLegal f
  | .btfsc _ f => Machine.registerLegal f
  | .btfss _ f => Machine.registerLegal f
  | .andlw _ => true
  | .call _ => true
  | .clrwdt => true
  | .goto _ => true
  | .iorlw _ => true
  | .movlw _ => true
  | .option => true
  | .retlw _ => true
  | .sleep => true
  | .tris f => selectorLegal f
  | .xorlw _ => true

end Sys2Proof
end

