-- ==== Sys2Proof/Decode.lean ====
section
/-! DEFINITION. From a word to a term of the syntax and back. Decoding does the first three steps of rule R133 (mask, match,
operand bits); the codec's checks are the meaning of the instruction found, so a word with a reserved register number has a
term, and only a word that no entry accepts is rejected, by name (assumption 16). -/

namespace Sys2Proof

open Machine

/-- The term of a matched entry and its operand bits, each field copied from its place (rules R48 to R55). -/
def instrOf (id : OpcodeId) (ob : Word12) : Instr :=
  match id with
  | .addwf => .addwf (destinationField ob) (registerField ob)
  | .andwf => .andwf (destinationField ob) (registerField ob)
  | .clrf => .clrf (registerField ob)
  | .clrw => .clrw
  | .comf => .comf (destinationField ob) (registerField ob)
  | .decf => .decf (destinationField ob) (registerField ob)
  | .decfsz => .decfsz (destinationField ob) (registerField ob)
  | .incf => .incf (destinationField ob) (registerField ob)
  | .incfsz => .incfsz (destinationField ob) (registerField ob)
  | .iorwf => .iorwf (destinationField ob) (registerField ob)
  | .movf => .movf (destinationField ob) (registerField ob)
  | .movwf => .movwf (registerField ob)
  | .nop => .nop
  | .rlf => .rlf (destinationField ob) (registerField ob)
  | .rrf => .rrf (destinationField ob) (registerField ob)
  | .subwf => .subwf (destinationField ob) (registerField ob)
  | .swapf => .swapf (destinationField ob) (registerField ob)
  | .xorwf => .xorwf (destinationField ob) (registerField ob)
  | .bcf => .bcf (bitIndexField ob) (registerField ob)
  | .bsf => .bsf (bitIndexField ob) (registerField ob)
  | .btfsc => .btfsc (bitIndexField ob) (registerField ob)
  | .btfss => .btfss (bitIndexField ob) (registerField ob)
  | .andlw => .andlw (literalField ob)
  | .call => .call (literalField ob)
  | .clrwdt => .clrwdt
  | .goto => .goto (addressField ob)
  | .iorlw => .iorlw (literalField ob)
  | .movlw => .movlw (literalField ob)
  | .option => .option
  | .retlw => .retlw (literalField ob)
  | .sleep => .sleep
  | .tris => .tris (selectorField ob)
  | .xorlw => .xorlw (literalField ob)

/-- Steps 1 to 3 of `decode` for a table given as an argument (rules R127 to R129). -/
def decodeInstrIn (table : List Opcode) (word : Word16) : Except DecodeError Instr :=
  match matchIn table (significantBits word) with
  | none => .error (.unknownOpcode (significantBits word))
  | some op => .ok (instrOf op.id (operandBits op.bitPattern (significantBits word)))

/-- Steps 1 to 3 of `decode` for the shipped table: the term, or `UnknownOpcode` by name. -/
def decodeInstr (word : Word16) : Except DecodeError Instr := decodeInstrIn TABLE word

/-- The environment's byte order: the first byte of a pair is the low byte (rule R33). -/
def wordOfBytes (low high : Byte) : Word16 := high ++ low

/-- Decoding from a byte stream: the first pair's instruction and the bytes after it. None where no whole word is left
(rule R34: bytes come in pairs). -/
def decodeBytes : List Byte → Option (Except DecodeError Instr × List Byte)
  | low :: high :: rest => some (decodeInstr (wordOfBytes low high), rest)
  | _ => none

/-- The decoder on an instruction given as a number: bit 0 of `w` is bit 0 of the word, and the bits from `nbits` up are 0. -/
def decodeTableWord (nbits w : Nat) : Option Instr :=
  match decodeInstr (BitVec.ofNat 16 (w % 2 ^ nbits)) with
  | .ok i => some i
  | .error _ => none

/-- The identity of a term's opcode. -/
def instrId : Instr → OpcodeId
  | .addwf _ _ => .addwf
  | .andwf _ _ => .andwf
  | .clrf _ => .clrf
  | .clrw => .clrw
  | .comf _ _ => .comf
  | .decf _ _ => .decf
  | .decfsz _ _ => .decfsz
  | .incf _ _ => .incf
  | .incfsz _ _ => .incfsz
  | .iorwf _ _ => .iorwf
  | .movf _ _ => .movf
  | .movwf _ => .movwf
  | .nop => .nop
  | .rlf _ _ => .rlf
  | .rrf _ _ => .rrf
  | .subwf _ _ => .subwf
  | .swapf _ _ => .swapf
  | .xorwf _ _ => .xorwf
  | .bcf _ _ => .bcf
  | .bsf _ _ => .bsf
  | .btfsc _ _ => .btfsc
  | .btfss _ _ => .btfss
  | .andlw _ => .andlw
  | .call _ => .call
  | .clrwdt => .clrwdt
  | .goto _ => .goto
  | .iorlw _ => .iorlw
  | .movlw _ => .movlw
  | .option => .option
  | .retlw _ => .retlw
  | .sleep => .sleep
  | .tris _ => .tris
  | .xorlw _ => .xorlw

/-- The 12 bits of an instruction, written from its format: the opcode field of its own rule (R141 to R173), then its operand
fields, most significant first (rules R47 to R54). -/
def encode : Instr → Word12
  | .addwf d f => 0b000111#6 ++ d ++ f
  | .andwf d f => 0b000101#6 ++ d ++ f
  | .clrf f => 0b0000011#7 ++ f
  | .clrw => 0b000001000000#12
  | .comf d f => 0b001001#6 ++ d ++ f
  | .decf d f => 0b000011#6 ++ d ++ f
  | .decfsz d f => 0b001011#6 ++ d ++ f
  | .incf d f => 0b001010#6 ++ d ++ f
  | .incfsz d f => 0b001111#6 ++ d ++ f
  | .iorwf d f => 0b000100#6 ++ d ++ f
  | .movf d f => 0b001000#6 ++ d ++ f
  | .movwf f => 0b0000001#7 ++ f
  | .nop => 0b000000000000#12
  | .rlf d f => 0b001101#6 ++ d ++ f
  | .rrf d f => 0b001100#6 ++ d ++ f
  | .subwf d f => 0b000010#6 ++ d ++ f
  | .swapf d f => 0b001110#6 ++ d ++ f
  | .xorwf d f => 0b000110#6 ++ d ++ f
  | .bcf b f => 0b0100#4 ++ b ++ f
  | .bsf b f => 0b0101#4 ++ b ++ f
  | .btfsc b f => 0b0110#4 ++ b ++ f
  | .btfss b f => 0b0111#4 ++ b ++ f
  | .andlw k => 0b1110#4 ++ k
  | .call k => 0b1001#4 ++ k
  | .clrwdt => 0b000000000100#12
  | .goto k => 0b101#3 ++ k
  | .iorlw k => 0b1101#4 ++ k
  | .movlw k => 0b1100#4 ++ k
  | .option => 0b000000000010#12
  | .retlw k => 0b1000#4 ++ k
  | .sleep => 0b000000000011#12
  | .tris f => 0b000000000#9 ++ f
  | .xorlw k => 0b1111#4 ++ k

/-- The 16-bit word that carries an encoding, with bits 15 to 12 zero (rule R46; assumption 19). -/
def encodeWord (i : Instr) : Word16 := (encode i).setWidth 16

/-- The two bytes of that word, the low byte first (rule R33). -/
def encodeBytes (i : Instr) : List Byte := [(encodeWord i).extractLsb' 0 8, (encodeWord i).extractLsb' 8 8]

end Sys2Proof
end

