-- ==== Sys2Proof/Machine/Assembler.lean ====
section
/-! DEFINITION. The program assembler as the one function of rule R192 (47_program_assembler.md, rules R176 to R193). The
machine's environment reaches the same result action by action (Machine/Environment.lean). -/

namespace Sys2Proof.Machine

/-- The logical address of the configuration word (rules R37, R38). -/
def configAddress : Nat := 0xFFF

/-- The last logical address of the program space (rules R37, R184). -/
def lastProgramAddress : Nat := 0xFF

/-- The words of a data record, each with its logical address: byte pairs in stream order, low byte first, at consecutive
addresses from `address` (rules R33, R36). The addresses do not wrap (rule R184). -/
def addressedWords (address : Nat) : List Byte → List (Nat × Word16)
  | low :: high :: rest => (address, wordOfBytes low high) :: addressedWords (address + 1) rest
  | _ => []

/-- The checks of a data record that come before its words, in the order of rule R178, and what the record gives: the records
it emits at once (a configuration word, never decoded: rules R181, R182) and the words to be decoded. -/
def openData (index : Nat) (address : Word16) (bytes : List Byte) :
    Except AssembleError (Program × List (Nat × Word16)) :=
  if address.toNat % 2 = 1 then .error (.unalignedAddress index address)
  else if address.toNat / 2 = configAddress then
    match bytes with
    | [low, high] => .ok ([.config (wordOfBytes low high)], [])
    | _ => .error (.badConfigWordLength index bytes.length)
  else if bytes.length % 2 = 1 then .error (.oddByteCount index bytes.length)
  else .ok ([], addressedWords (address.toNat / 2) bytes)

/-- What an input record gives when it is begun; `more` says whether records follow it (rules R178, R186 to R188). -/
def openRecord (index : Nat) (more : Bool) : InputRecord → Except AssembleError (Program × List (Nat × Word16))
  | .data address bytes => openData index address bytes
  | .extendedLinearAddress upper =>
    if upper = 0#16 then .ok ([], []) else .error (.unsupportedAddressExtension index upper)
  | .endOfFile => if more then .error (.trailingDataAfterEndOfFile index) else .ok ([], [])
  | .startSegmentAddress => .error (.unsupportedRecordKind index)
  | .extendedSegmentAddress => .error (.unsupportedRecordKind index)
  | .startLinearAddress => .error (.unsupportedRecordKind index)

/-- What becomes of a decoded word: a Statement, or the decoder's error with the record's position (rule R185). -/
def statementOf (index address : Nat) : Except DecodeError Instruction → Except AssembleError ProgramRecord
  | .ok i => .ok (.statement (BitVec.ofNat 8 address) i)
  | .error e => .error (.decoder e index)

/-- The words of a data record, in order: each address is checked, then the word is decoded (rules R184, R185). -/
def assembleWords (index : Nat) : List (Nat × Word16) → Except AssembleError Program
  | [] => .ok []
  | (address, word) :: rest =>
    if lastProgramAddress < address then .error (.addressOutOfRange index address)
    else
      match statementOf index address (decode word) with
      | .error e => .error e
      | .ok record =>
        match assembleWords index rest with
        | .error e => .error e
        | .ok records => .ok (record :: records)

/-- The records from index `index` on, in order; the first error ends the call and no record is returned with it (rules R177,
R189, R192). An input without an end-of-file record is tolerated (rule R190). -/
def assembleFrom (index : Nat) : List InputRecord → Except AssembleError Program
  | [] => .ok []
  | record :: rest =>
    match openRecord index (!rest.isEmpty) record with
    | .error e => .error e
    | .ok (emitted, words) =>
      match assembleWords index words with
      | .error e => .error e
      | .ok statements =>
        match assembleFrom (index + 1) rest with
        | .error e => .error e
        | .ok records => .ok (emitted ++ statements ++ records)

/-- `assemble(records)` (rules R176, R192). -/
def assemble (records : List InputRecord) : Except AssembleError Program := assembleFrom 0 records

end Sys2Proof.Machine
end

