-- ==== Sys2Proof/Machine/State.lean ====
section
/-! DEFINITION. The state of the machine, the reasons a step can stop, and the state after reset. The block itself is
stateless (rules R13 to R19): the state holds what a call of `decode` works on and gives back, and the run of the environment
that makes such calls (47_program_assembler.md). -/

namespace Sys2Proof.Machine

/-- Why a step can stop with a fault. A decoder error is no fault: it is the value the call returns, and the next call is made
as if it had not happened (rules R205, R206; assumption 2). -/
inductive Fault where
  /-- The construction of the opcode table failed: there is no decoder (rules R85, R222). Raised by `stepBlockWith`, and never on this
  hardware, whose 33 strings all compile (rule R201). Safe: the machine stops where the spec has no machine (assumption 15). -/
  | patternError (error : PatternError)
  deriving DecidableEq, Repr

/-- Why a step can be refused. -/
inductive Refusal where
  /-- An instruction without a meaning. Raised by `exec` for such an arm only, and there is none. Safe. -/
  | notModelled (mnemonic : String)
  deriving DecidableEq, Repr

/-- A call of `assemble` in progress (rule R192), between two of its actions. -/
structure AssemblerRun where
  /-- The index, in the input, of the first record of `rest` (rule R193). -/
  next : Nat
  /-- The index of the data record that the queued words belong to. -/
  current : Nat
  /-- The words of that record still to be decoded, each with its logical address (rules R36, R184). -/
  words : List (Nat × Word16)
  /-- The input records not yet begun. -/
  rest : List InputRecord
  /-- The records emitted so far, in order (rule R189). -/
  out : Program
  deriving DecidableEq, Repr

/-- The environment's program assembler (rule R176). -/
inductive Assembler where
  /-- No call of `assemble` is in progress and none has returned. -/
  | idle
  /-- A call is in progress. -/
  | running (run : AssemblerRun)
  /-- The call has returned the program, or the first error and no program (rule R177). -/
  | returned (result : Except AssembleError Program)
  deriving DecidableEq, Repr

/-- The machine. The block's one persistent item, the constant table, is `TABLE` (assumption 3). -/
structure State where
  /-- Input port `word_i`: the word of the call to be made (rules R126, R138). -/
  wordI : Word16
  /-- The value returned by the last call of `decode`: an instruction or one error (rules R126, R205). None before the first
  call returns (assumption 4). -/
  reply : Option (Except DecodeError Instruction)
  /-- The environment that feeds words to the block (rules R5, R176). -/
  assembler : Assembler
  /-- The model's own: it names which functions of the word the output ports that are not valid are on this machine. No step
  changes it, so those ports too are functions of `wordI` (rule R223; assumption 6). -/
  freeIndex : Nat
  deriving DecidableEq, Repr

/-- The machine right after reset. The block has no resettable state (rules R28, R221, R223): no call has returned and no
assembly has begun. The values of `wordI` and `freeIndex` are the model's (assumptions 5 and 6). -/
def State.reset : State where
  wordI := 0#16
  reply := none
  assembler := .idle
  freeIndex := 0

end Sys2Proof.Machine
end

