-- ==== Sys2Proof/Machine/Ops.lean ====
section
/-! DEFINITION. The named operations on the machine's state: how a call of `decode` is presented, returns a result, and returns
an error. The block has no memory and no registers (rules R13, R31), so there are none over those. -/

namespace Sys2Proof.Machine

/-- A word on the input port (rule R138). -/
def State.presents (s : State) (word : Word16) : State := { s with wordI := word }

/-- A call returns a value, and nothing else changes (rules R126, R205). -/
def State.returns (s : State) (reply : Except DecodeError Instruction) : State :=
  { s with reply := some reply }

/-- A call returns an instruction (rule R132). -/
def State.returnsOk (s : State) (i : Instruction) : State := s.returns (.ok i)

/-- "Trap entry" of this hardware: the error is the value the call returns, in place of the normal result; nothing is saved,
no mode changes and control goes nowhere (rule R205, decision D25). There is no return from it and nothing to restore or
clear: the next call is made on the state as it is (rule R206). -/
def State.raises (s : State) (e : DecodeError) : State := s.returns (.error e)

/-- Steps 4 to 6 of `decode` for a matched entry: the codec's error is passed on unchanged, its operand is returned with the
entry's identity (rules R130 to R132). -/
def State.answers (s : State) (id : OpcodeId) (operands : Except DecodeError Operand) :
    Host.Outcome State Fault Refusal :=
  match operands with
  | .error e => .next (s.raises e)
  | .ok x => .next (s.returnsOk ⟨id, x⟩)

/-- A record of the input has been begun or emitted, or the call of `assemble` has returned (rule R192). -/
def State.withAssembler (s : State) (a : Assembler) : State := { s with assembler := a }

end Sys2Proof.Machine
end

