-- ==== Sys2Proof/Machine/BitOriented.lean ====
section
/-! DEFINITION. The bit-oriented file register opcodes, table index 18 to 21 (rules R159 to R162). The meaning of each is the arm of rule
R133 that it takes: its operand, checked, is returned with its identity, or the error is. Nothing is executed (rules R6, R174,
R175; assumption 1). -/

namespace Sys2Proof.Machine

/-- bcf (rule R159): `InvalidRegister` for a register number 8 to 15, whatever the bit index is. -/
def execBcf (b : BitVec 3) (f : BitVec 5) (s : State) : Host.Outcome State Fault Refusal :=
  s.answers .bcf (fileAndBitNumberOperand b f)

/-- bsf (rule R160): `InvalidRegister` for a register number 8 to 15, whatever the bit index is. -/
def execBsf (b : BitVec 3) (f : BitVec 5) (s : State) : Host.Outcome State Fault Refusal :=
  s.answers .bsf (fileAndBitNumberOperand b f)

/-- btfsc (rule R161): `InvalidRegister` for a register number 8 to 15, whatever the bit index is. -/
def execBtfsc (b : BitVec 3) (f : BitVec 5) (s : State) : Host.Outcome State Fault Refusal :=
  s.answers .btfsc (fileAndBitNumberOperand b f)

/-- btfss (rule R162): `InvalidRegister` for a register number 8 to 15, whatever the bit index is. -/
def execBtfss (b : BitVec 3) (f : BitVec 5) (s : State) : Host.Outcome State Fault Refusal :=
  s.answers .btfss (fileAndBitNumberOperand b f)

end Sys2Proof.Machine
end

