-- ==== Sys2Proof/Machine/ByteOriented.lean ====
section
/-! DEFINITION. The byte-oriented file register opcodes, table index 0 to 17 (rules R141 to R158). The meaning of each is the arm of rule
R133 that it takes: its operand, checked, is returned with its identity, or the error is. Nothing is executed (rules R6, R174,
R175; assumption 1). -/

namespace Sys2Proof.Machine

/-- addwf (rule R141): `InvalidRegister` for a register number 8 to 15, whatever the destination is. -/
def execAddwf (d : BitVec 1) (f : BitVec 5) (s : State) : Host.Outcome State Fault Refusal :=
  s.answers .addwf (fileAndDestinationOperand d f)

/-- andwf (rule R142): `InvalidRegister` for a register number 8 to 15, whatever the destination is. -/
def execAndwf (d : BitVec 1) (f : BitVec 5) (s : State) : Host.Outcome State Fault Refusal :=
  s.answers .andwf (fileAndDestinationOperand d f)

/-- clrf (rule R143): `InvalidRegister` for a register number 8 to 15. -/
def execClrf (f : BitVec 5) (s : State) : Host.Outcome State Fault Refusal :=
  s.answers .clrf (fileOperand f)

/-- clrw (rule R144): no field, no error. -/
def execClrw (s : State) : Host.Outcome State Fault Refusal :=
  s.answers .clrw (.ok .noOperands)

/-- comf (rule R145): `InvalidRegister` for a register number 8 to 15, whatever the destination is. -/
def execComf (d : BitVec 1) (f : BitVec 5) (s : State) : Host.Outcome State Fault Refusal :=
  s.answers .comf (fileAndDestinationOperand d f)

/-- decf (rule R146): `InvalidRegister` for a register number 8 to 15, whatever the destination is. -/
def execDecf (d : BitVec 1) (f : BitVec 5) (s : State) : Host.Outcome State Fault Refusal :=
  s.answers .decf (fileAndDestinationOperand d f)

/-- decfsz (rule R147): `InvalidRegister` for a register number 8 to 15, whatever the destination is. -/
def execDecfsz (d : BitVec 1) (f : BitVec 5) (s : State) : Host.Outcome State Fault Refusal :=
  s.answers .decfsz (fileAndDestinationOperand d f)

/-- incf (rule R148): `InvalidRegister` for a register number 8 to 15, whatever the destination is. -/
def execIncf (d : BitVec 1) (f : BitVec 5) (s : State) : Host.Outcome State Fault Refusal :=
  s.answers .incf (fileAndDestinationOperand d f)

/-- incfsz (rule R149): `InvalidRegister` for a register number 8 to 15, whatever the destination is. -/
def execIncfsz (d : BitVec 1) (f : BitVec 5) (s : State) : Host.Outcome State Fault Refusal :=
  s.answers .incfsz (fileAndDestinationOperand d f)

/-- iorwf (rule R150): `InvalidRegister` for a register number 8 to 15, whatever the destination is. -/
def execIorwf (d : BitVec 1) (f : BitVec 5) (s : State) : Host.Outcome State Fault Refusal :=
  s.answers .iorwf (fileAndDestinationOperand d f)

/-- movf (rule R151): `InvalidRegister` for a register number 8 to 15, whatever the destination is. -/
def execMovf (d : BitVec 1) (f : BitVec 5) (s : State) : Host.Outcome State Fault Refusal :=
  s.answers .movf (fileAndDestinationOperand d f)

/-- movwf (rule R152): `InvalidRegister` for a register number 8 to 15. -/
def execMovwf (f : BitVec 5) (s : State) : Host.Outcome State Fault Refusal :=
  s.answers .movwf (fileOperand f)

/-- nop (rule R153): no field, no error. -/
def execNop (s : State) : Host.Outcome State Fault Refusal :=
  s.answers .nop (.ok .noOperands)

/-- rlf (rule R154): `InvalidRegister` for a register number 8 to 15, whatever the destination is. -/
def execRlf (d : BitVec 1) (f : BitVec 5) (s : State) : Host.Outcome State Fault Refusal :=
  s.answers .rlf (fileAndDestinationOperand d f)

/-- rrf (rule R155): `InvalidRegister` for a register number 8 to 15, whatever the destination is. -/
def execRrf (d : BitVec 1) (f : BitVec 5) (s : State) : Host.Outcome State Fault Refusal :=
  s.answers .rrf (fileAndDestinationOperand d f)

/-- subwf (rule R156): `InvalidRegister` for a register number 8 to 15, whatever the destination is. -/
def execSubwf (d : BitVec 1) (f : BitVec 5) (s : State) : Host.Outcome State Fault Refusal :=
  s.answers .subwf (fileAndDestinationOperand d f)

/-- swapf (rule R157): `InvalidRegister` for a register number 8 to 15, whatever the destination is. -/
def execSwapf (d : BitVec 1) (f : BitVec 5) (s : State) : Host.Outcome State Fault Refusal :=
  s.answers .swapf (fileAndDestinationOperand d f)

/-- xorwf (rule R158): `InvalidRegister` for a register number 8 to 15, whatever the destination is. -/
def execXorwf (d : BitVec 1) (f : BitVec 5) (s : State) : Host.Outcome State Fault Refusal :=
  s.answers .xorwf (fileAndDestinationOperand d f)

end Sys2Proof.Machine
end

