-- ==== Sys2Proof/Machine/LiteralControl.lean ====
section
/-! DEFINITION. The literal and control opcodes, table index 22 to 32 (rules R163 to R175). The meaning of each is the arm of rule
R133 that it takes: its operand, checked, is returned with its identity, or the error is. Nothing is executed (rules R6, R174,
R175; assumption 1). -/

namespace Sys2Proof.Machine

/-- andlw (rule R163): every byte is legal. -/
def execAndlw (k : BitVec 8) (s : State) : Host.Outcome State Fault Refusal :=
  s.answers .andlw (.ok (.literal k))

/-- call (rule R164): every byte is legal. -/
def execCall (k : BitVec 8) (s : State) : Host.Outcome State Fault Refusal :=
  s.answers .call (.ok (.literal k))

/-- clrwdt (rule R165): no field, no error. -/
def execClrwdt (s : State) : Host.Outcome State Fault Refusal :=
  s.answers .clrwdt (.ok .noOperands)

/-- goto (rule R166): every 9-bit address is legal and none is compared with the program space (conflict C5). -/
def execGoto (k : BitVec 9) (s : State) : Host.Outcome State Fault Refusal :=
  s.answers .goto (.ok (.goto k))

/-- iorlw (rule R167): every byte is legal. -/
def execIorlw (k : BitVec 8) (s : State) : Host.Outcome State Fault Refusal :=
  s.answers .iorlw (.ok (.literal k))

/-- movlw (rule R168): every byte is legal. -/
def execMovlw (k : BitVec 8) (s : State) : Host.Outcome State Fault Refusal :=
  s.answers .movlw (.ok (.literal k))

/-- option (rule R169): no field, no error. -/
def execOption (s : State) : Host.Outcome State Fault Refusal :=
  s.answers .option (.ok .noOperands)

/-- retlw (rule R170): every byte is legal. -/
def execRetlw (k : BitVec 8) (s : State) : Host.Outcome State Fault Refusal :=
  s.answers .retlw (.ok (.literal k))

/-- sleep (rule R171): no field, no error. -/
def execSleep (s : State) : Host.Outcome State Fault Refusal :=
  s.answers .sleep (.ok .noOperands)

/-- tris (rule R172): `InvalidTrisSelector` unless the selector is 6 or 7. -/
def execTris (f : BitVec 3) (s : State) : Host.Outcome State Fault Refusal :=
  s.answers .tris (trisOperand f)

/-- xorlw (rule R173): every byte is legal. -/
def execXorlw (k : BitVec 8) (s : State) : Host.Outcome State Fault Refusal :=
  s.answers .xorlw (.ok (.literal k))

end Sys2Proof.Machine
end

