-- ==== Sys2Proof/Machine/Dispatch.lean ====
section
/-! DEFINITION. The dispatch: one arm per constructor of Instr, each one direct call of that instruction's meaning. -/

namespace Sys2Proof.Machine

def exec (i : Instr) (s : State) : Host.Outcome State Fault Refusal :=
  match i with
  | .addwf d f => Sys2Proof.Machine.execAddwf d f s
  | .andwf d f => Sys2Proof.Machine.execAndwf d f s
  | .clrf f => Sys2Proof.Machine.execClrf f s
  | .clrw => Sys2Proof.Machine.execClrw s
  | .comf d f => Sys2Proof.Machine.execComf d f s
  | .decf d f => Sys2Proof.Machine.execDecf d f s
  | .decfsz d f => Sys2Proof.Machine.execDecfsz d f s
  | .incf d f => Sys2Proof.Machine.execIncf d f s
  | .incfsz d f => Sys2Proof.Machine.execIncfsz d f s
  | .iorwf d f => Sys2Proof.Machine.execIorwf d f s
  | .movf d f => Sys2Proof.Machine.execMovf d f s
  | .movwf f => Sys2Proof.Machine.execMovwf f s
  | .nop => Sys2Proof.Machine.execNop s
  | .rlf d f => Sys2Proof.Machine.execRlf d f s
  | .rrf d f => Sys2Proof.Machine.execRrf d f s
  | .subwf d f => Sys2Proof.Machine.execSubwf d f s
  | .swapf d f => Sys2Proof.Machine.execSwapf d f s
  | .xorwf d f => Sys2Proof.Machine.execXorwf d f s
  | .bcf b f => Sys2Proof.Machine.execBcf b f s
  | .bsf b f => Sys2Proof.Machine.execBsf b f s
  | .btfsc b f => Sys2Proof.Machine.execBtfsc b f s
  | .btfss b f => Sys2Proof.Machine.execBtfss b f s
  | .andlw k => Sys2Proof.Machine.execAndlw k s
  | .call k => Sys2Proof.Machine.execCall k s
  | .clrwdt => Sys2Proof.Machine.execClrwdt s
  | .goto k => Sys2Proof.Machine.execGoto k s
  | .iorlw k => Sys2Proof.Machine.execIorlw k s
  | .movlw k => Sys2Proof.Machine.execMovlw k s
  | .option => Sys2Proof.Machine.execOption s
  | .retlw k => Sys2Proof.Machine.execRetlw k s
  | .sleep => Sys2Proof.Machine.execSleep s
  | .tris f => Sys2Proof.Machine.execTris f s
  | .xorlw k => Sys2Proof.Machine.execXorlw k s

end Sys2Proof.Machine
end

