-- ==== Sys2Proof/Machine/Environment.lean ====
section
/-! DEFINITION. What one step does: a call of `decode` on the word on `word_i`, or one action of the environment's assembler,
which makes such a call for each program word (rules R5, R185, R212; assumption 13). -/

namespace Sys2Proof.Machine

/-- One call of `decode` on a design whose table construction gave `built`: with no table there is no decoder (rules R85, R222);
else the matched instruction's meaning, or `UnknownOpcode` (rules R126, R128). -/
def stepBlockWith (built : Except PatternError (List Opcode)) (s : State) : Host.Outcome State Fault Refusal :=
  match built with
  | .error e => .fault (.patternError e)
  | .ok table =>
    match decodeInstrIn table s.wordI with
    | .error e => .next (s.raises e)
    | .ok i => exec i s

/-- One call of `decode` on this hardware, whose 33 pattern strings all compile (rule R201;
`Obligations.ShippedPatternsCompile`). -/
def stepBlock (s : State) : Host.Outcome State Fault Refusal := stepBlockWith (.ok TABLE) s

/-- The caller's use of a returned value: the statement is emitted, or the call of `assemble` returns the error (rules R177,
R185). -/
def collectStatement (run : AssemblerRun) (address : Nat) (later : List (Nat × Word16)) (s : State) : State :=
  match s.reply with
  | none => s
  | some reply =>
    match statementOf run.current address reply with
    | .error e => s.withAssembler (.returned (.error e))
    | .ok record => s.withAssembler (.running { run with words := later, out := run.out ++ [record] })

/-- The environment takes up its next input record, or returns the program when there is none (rules R178, R186 to R190). -/
def beginRecord (run : AssemblerRun) (s : State) : State :=
  match run.rest with
  | [] => s.withAssembler (.returned (.ok run.out))
  | record :: rest =>
    match openRecord run.next (!rest.isEmpty) record with
    | .error e => s.withAssembler (.returned (.error e))
    | .ok (emitted, words) =>
      s.withAssembler (.running ⟨run.next + 1, run.next, words, rest, run.out ++ emitted⟩)

/-- One action of a call of `assemble` (rule R192): the next queued word is checked, presented to the block and its result
taken; or, with no word queued, the next record is begun. -/
def stepAssembler (run : AssemblerRun) (s : State) : Host.Outcome State Fault Refusal :=
  match run.words with
  | [] => .next (beginRecord run s)
  | (address, word) :: later =>
    if lastProgramAddress < address then
      .next (s.withAssembler (.returned (.error (.addressOutOfRange run.current address))))
    else
      match stepBlock (s.presents word) with
      | .next t => .next (collectStatement run address later t)
      | .fault r => .fault r
      | .refused r => .refused r

/-- The environment begins a call of `assemble` on the given records (rule R176). -/
def State.withRecords (s : State) (records : List InputRecord) : State :=
  s.withAssembler (.running ⟨0, 0, [], records, []⟩)

/-- The environment as it is when the block is called directly: a call of `assemble` in progress is given up. -/
def withoutRun : Assembler → Assembler
  | .idle => .idle
  | .running _ => .idle
  | .returned result => .returned result

end Sys2Proof.Machine
end

