-- ==== Sys2Proof/Machine/Step.lean ====
section
/-! DEFINITION. The step, and how a word is placed where the next step takes it. -/

namespace Sys2Proof.Machine

/-- One step: one action of the environment while a call of `assemble` is in progress, else one call of `decode` on the word on
`word_i` (rules R126, R212; assumption 13). -/
def step (s : State) : Host.Outcome State Fault Refusal :=
  match s.assembler with
  | .running run => stepAssembler run s
  | .idle => stepBlock s
  | .returned _ => stepBlock s

/-- The instruction whose bits are `w` (the bits from `nbits` up zero) put on `word_i`, with no call of `assemble` in
progress, so that the next step decodes it (assumption 14). -/
def State.withFetchWord (s : State) (nbits w : Nat) : State :=
  (s.presents (BitVec.ofNat 16 (w % 2 ^ nbits))).withAssembler (withoutRun s.assembler)

end Sys2Proof.Machine
end

