-- ==== Sys2Proof/Machine/Ports.lean ====
section
/-! DEFINITION. The port view of the decoder (rule R138): each output is a combinational function of `word_i` (rule R223), so the
ports are computed from the state and not stored in it. An output that is not valid has no specified value (treatment U7): it
is a free function of the word, from Config (assumption 6). -/

namespace Sys2Proof.Machine

/-- The output ports of rule R138. -/
structure Ports where
  statusO : BitVec 2
  opcodeO : BitVec 6
  shapeO : BitVec 3
  regO : BitVec 5
  destO : BitVec 1
  bitO : BitVec 3
  literalO : BitVec 8
  addressO : BitVec 9
  trisO : BitVec 1
  errvalO : BitVec 12
  deriving DecidableEq, Repr

/-- The code of a shape tag on `shape_o` (rule R138). -/
def shapeCode : OperandShape → BitVec 3
  | .noOperands => 0#3
  | .file => 1#3
  | .fileAndDestination => 2#3
  | .fileAndBitNumber => 3#3
  | .literal => 4#3
  | .goto => 5#3
  | .tris => 6#3

/-- `status_o`: 0 for a success, else the error's code (rules R138, R197). -/
def statusPort (word : Word16) : BitVec 2 :=
  match decode word with
  | .ok _ => 0#2
  | .error e => BitVec.ofNat 2 (decodeErrorCode e)

/-- `opcode_o`: the matched entry's index; free when no entry matches (rule R138). -/
def opcodePort (n : Nat) (word : Word16) : BitVec 6 :=
  match matchOpcode (significantBits word) with
  | some op => BitVec.ofNat 6 (opcodeIndex op.id)
  | none => Config.freeOpcode n word

/-- `shape_o`: the matched entry's shape; free when no entry matches (rule R138). -/
def shapePort (n : Nat) (word : Word16) : BitVec 3 :=
  match matchOpcode (significantBits word) with
  | some op => shapeCode op.bitPattern.operandShape
  | none => Config.freeShape n word

/-- The operand that the remaining success ports carry, if the word decodes. -/
def decodedOperand (word : Word16) : Option Operand :=
  match decode word with
  | .ok i => some i.operands
  | .error _ => none

/-- `reg_o`: valid for the three shapes with a register (rule R138). -/
def regPort (n : Nat) (word : Word16) : BitVec 5 :=
  match decodedOperand word with
  | some (.file r) => r.number
  | some (.fileAndDestination r _) => r.number
  | some (.fileAndBitNumber r _) => r.number
  | _ => Config.freeReg n word

/-- `dest_o`: 0 working, 1 file; valid for FileAndDestination (rule R138). -/
def destPort (n : Nat) (word : Word16) : BitVec 1 :=
  match decodedOperand word with
  | some (.fileAndDestination _ .working) => 0#1
  | some (.fileAndDestination _ .file) => 1#1
  | _ => Config.freeDest n word

/-- `bit_o`: valid for FileAndBitNumber (rule R138). -/
def bitPort (n : Nat) (word : Word16) : BitVec 3 :=
  match decodedOperand word with
  | some (.fileAndBitNumber _ b) => b
  | _ => Config.freeBit n word

/-- `literal_o`: valid for Literal (rule R138). -/
def literalPort (n : Nat) (word : Word16) : BitVec 8 :=
  match decodedOperand word with
  | some (.literal k) => k
  | _ => Config.freeLiteral n word

/-- `address_o`: valid for Goto (rule R138). -/
def addressPort (n : Nat) (word : Word16) : BitVec 9 :=
  match decodedOperand word with
  | some (.goto a) => a
  | _ => Config.freeAddress n word

/-- `tris_o`: 0 GPIO, 1 CMCON0; valid for Tris (rule R138). -/
def trisPort (n : Nat) (word : Word16) : BitVec 1 :=
  match decodedOperand word with
  | some (.tris .GPIO) => 0#1
  | some (.tris .CMCON0) => 1#1
  | _ => Config.freeTris n word

/-- The offending raw value of an error, zero-extended (rule R138). -/
def errorValue : DecodeError → BitVec 12
  | .unknownOpcode w => w
  | .invalidRegister f => f.setWidth 12
  | .invalidTrisSelector s => s.setWidth 12

/-- `errval_o`: valid for an error (rule R138). -/
def errvalPort (n : Nat) (word : Word16) : BitVec 12 :=
  match decode word with
  | .ok _ => Config.freeErrval n word
  | .error e => errorValue e

/-- All output ports while `word` is on `word_i`; `n` names the free functions. -/
def portsOf (n : Nat) (word : Word16) : Ports where
  statusO := statusPort word
  opcodeO := opcodePort n word
  shapeO := shapePort n word
  regO := regPort n word
  destO := destPort n word
  bitO := bitPort n word
  literalO := literalPort n word
  addressO := addressPort n word
  trisO := trisPort n word
  errvalO := errvalPort n word

/-- The output ports of the machine, now (rules R138, R223): functions of the word on `word_i`, since no step changes
`freeIndex`. Never a stale value. -/
def State.ports (s : State) : Ports := portsOf s.freeIndex s.wordI

/-- The entry whose index stands on `opcode_o`. -/
def opcodeOfIndex (index : BitVec 6) : Option OpcodeId := declarationOrder[index.toNat]?

/-- The operand read from the ports, by `shape_o`, from the outputs valid for that shape alone (rule R138). -/
def operandOfPorts (p : Ports) : Option Operand :=
  let register : Option RegisterFile := if h : registerLegal p.regO = true then some ⟨p.regO, h⟩ else none
  match p.shapeO.toNat with
  | 0 => some .noOperands
  | 1 => register.map .file
  | 2 => register.map fun r => .fileAndDestination r (destinationOf p.destO)
  | 3 => register.map fun r => .fileAndBitNumber r p.bitO
  | 4 => some (.literal p.literalO)
  | 5 => some (.goto p.addressO)
  | 6 => some (.tris (if p.trisO = 0#1 then .GPIO else .CMCON0))
  | _ => none

/-- The result of a call, read from the output ports and from no output that is not valid (rule R138). -/
def resultOfPorts (p : Ports) : Option (Except DecodeError Instruction) :=
  match p.statusO.toNat with
  | 0 =>
    match opcodeOfIndex p.opcodeO, operandOfPorts p with
    | some id, some x => some (.ok ⟨id, x⟩)
    | _, _ => none
  | 1 => some (.error (.unknownOpcode p.errvalO))
  | 2 => some (.error (.invalidRegister (p.errvalO.extractLsb' 0 5)))
  | _ => some (.error (.invalidTrisSelector (p.errvalO.extractLsb' 0 3)))

end Sys2Proof.Machine
end

