-- ==== Sys2Proof/Safety.lean ====
section
/-! DEFINITION. What a good state and a safe step are, in the terms the statements use. -/

namespace Sys2Proof.Machine

/-- The value a call returned is one that `decode` can return: an instruction with the operand variant of its opcode's shape
(rule R24), or an error with a payload of its kind (rules R198 to R200). -/
def replyWf : Option (Except DecodeError Instruction) → Bool
  | some (.ok i) => instructionWf i
  | some (.error (.invalidRegister f)) => !registerLegal f
  | some (.error (.invalidTrisSelector s)) => !selectorLegal s
  | some (.error (.unknownOpcode w)) => (matchOpcode w).isNone
  | none => true

/-- Every statement of a program holds an instruction with the operand variant of its opcode's shape (rules R24, R26). -/
def programWf (p : Program) : Bool :=
  p.all fun
    | .config _ => true
    | .statement _ i => instructionWf i

/-- A call of `assemble` in progress: what is emitted is a program, and queued words belong to the record begun last. -/
def runWf (run : AssemblerRun) : Bool :=
  programWf run.out && (run.words.isEmpty || run.current + 1 == run.next)

/-- The environment's part of the invariant. -/
def assemblerWf : Assembler → Bool
  | .idle => true
  | .running run => runWf run
  | .returned (.ok p) => programWf p
  | .returned (.error _) => true

/-- The invariant of the machine: what has been returned, and what has been emitted, is what rules R24 to R26 say such values
are. -/
def State.good (s : State) : Bool := replyWf s.reply && assemblerWf s.assembler

/-- A step that neither faults nor refuses. -/
def stepsOn (s : State) : Prop := ∃ t, step s = .next t

/-- No call of `assemble` is in progress, so a step is a direct call of `decode`. -/
def directCall (s : State) : Prop := ∀ run, s.assembler ≠ .running run

/-- The state after a call that returned `reply`: the returned value, and nothing else. -/
def State.afterCall (s : State) (reply : Except DecodeError Instruction) : State :=
  ⟨s.wordI, some reply, s.assembler, s.freeIndex⟩

/-- The number of words that the data records of an input hold (rule R33). -/
def wordsIn : List InputRecord → Nat
  | [] => 0
  | .data _ bytes :: rest => bytes.length / 2 + wordsIn rest
  | .endOfFile :: rest => wordsIn rest
  | .extendedLinearAddress _ :: rest => wordsIn rest
  | .startSegmentAddress :: rest => wordsIn rest
  | .extendedSegmentAddress :: rest => wordsIn rest
  | .startLinearAddress :: rest => wordsIn rest

end Sys2Proof.Machine
end

