-- ==== Sys2Proof/Certificates/Slice0/Obligations.lean ====
section
/-! DEFINITION. The statements about the model, for the provers. Each docstring says what is claimed and which rules of the spec
it formalises. -/

open Sys2Proof Sys2Proof.Machine

/-- For every well-formed instruction, of all 33 opcodes and with every operand value, decoding the 16-bit word that
carries its encoding gives that instruction: the other entries that come first in the table take none of its words.
(From 30_encoding.md rules R47 to R54, R60, 43_instruction_decoder.md rule R134.) -/
def Obligations.DecodeOfEncodeIsTheInstruction : Prop :=
  ∀ i : Instr, wellFormed i = true → decodeInstr (encodeWord i) = .ok i

/-- For every 16-bit word that the table has an entry for, the encoding of the instruction found is the low 12 bits of the
word: no operand bit and no opcode bit is dropped. (From 30_encoding.md rules R47 to R55, 43_instruction_decoder.md
rule R129.) -/
def Obligations.EncodeOfDecodeIsTheWord : Prop :=
  ∀ (word : Word16) (i : Instr), decodeInstr word = .ok i → encode i = word.extractLsb' 0 12

/-- For every word that decodes, encodeInstr of the result is the low 12 bits of the word; and for every instruction whose
operand has the shape of its opcode, decode of encodeInstr gives that instruction. (States R134.) -/
def Obligations.ReencodingInvertsDecode : Prop :=
  (∀ (word : Word16) (i : Instruction), decode word = .ok i → encodeInstr i = word.extractLsb' 0 12) ∧
  (∀ i : Instruction, (entryOf i.opcode).bitPattern.operandShape = operandShapeOf i.operands →
    decode ((encodeInstr i).setWidth 16) = .ok i)

/-- An entry's mask is 0xFFF for NoOperands, 0xFE0 for File, 0xFC0 for FileAndDestination, 0xF00 for FileAndBitNumber and
Literal, 0xE00 for Goto, 0xFF8 for Tris, and its match value has no bit outside the mask. (From 30_encoding.md rules
R48 to R54, 10_state.md rule R21.) -/
def Obligations.FormatsHaveTheirMasks : Prop :=
  ∀ id : OpcodeId,
    (opcodeBitPattern id).opcode &&& ~~~(opcodeBitPattern id).mask = 0#12 ∧
    (opcodeBitPattern id).mask =
      match (opcodeBitPattern id).operandShape with
      | .noOperands => 0xFFF#12
      | .file => 0xFE0#12
      | .fileAndDestination => 0xFC0#12
      | .fileAndBitNumber => 0xF00#12
      | .literal => 0xF00#12
      | .goto => 0xE00#12
      | .tris => 0xFF8#12

/-- The seven words that rule R139 traces decode to what it says: clrw, clrf(GPIO), InvalidRegister(8), two gotos,
movwf(OSCCAL) and movlw(0x1C). (From 43_instruction_decoder.md rule R139.) -/
def Obligations.SourceExamplesDecode : Prop :=
  decode 0b0000_0100_0000#16 = .ok ⟨.clrw, .noOperands⟩ ∧
  decode 0b0000_0110_0110#16 = .ok ⟨.clrf, .file ⟨6#5, rfl⟩⟩ ∧
  decode 0b0000_0110_1000#16 = .error (.invalidRegister 8#5) ∧
  decode 0b1010_1110_1010#16 = .ok ⟨.goto, .goto 0x0EA#9⟩ ∧
  decode 0b1011_1101_1000#16 = .ok ⟨.goto, .goto 0x1D8#9⟩ ∧
  decode 0x0025#16 = .ok ⟨.movwf, .file ⟨5#5, rfl⟩⟩ ∧
  decode 0x0C1C#16 = .ok ⟨.movlw, .literal 0x1C#8⟩

/-- compile of each entry's pattern string gives the match value, mask and shape listed for the entry, and the
construction of the table from the 33 strings in declaration order gives TABLE. (States R92.) -/
def Obligations.ShippedPatternsCompile : Prop :=
  (∀ id : OpcodeId, compile (opcodePattern id) = .ok (opcodeBitPattern id)) ∧
  elaborateTable tableSource = .ok TABLE

/-- For every whitespace set and every string that compile accepts, the match value has no bit outside the mask, and the
mask is a run of ones from bit 11 down whose zero bits are as many as the shape is wide. (From 40_pattern_compiler.md
rule R82, 10_state.md rule R21.) -/
def Obligations.CompiledPatternsAreWellFormed : Prop :=
  ∀ (ws pattern : List Char) (bp : BitPattern), compileWith ws pattern = .ok bp →
    bp.opcode &&& ~~~bp.mask = 0#12 ∧
    bp.mask.toNat = (2 ^ (12 - shapeWidth bp.operandShape) - 1) * 2 ^ shapeWidth bp.operandShape

/-- For every list of binary digits (most significant first) and every shape that together fill 12 bits, at least one
digit, compile of the digits followed by the shape string gives the digits' number and a mask of as many ones, both
shifted to the top of 12 bits, and the shape. (From 40_pattern_compiler.md rules R77, R79, R83, R86.) -/
def Obligations.CompileHasItsClosedForm : Prop :=
  ∀ (digits : List Bool) (tag : OperandShape), 1 ≤ digits.length → digits.length + shapeWidth tag = 12 →
    compileStripped (digits.map (fun c => if c then '1' else '0') ++ shapeLetters tag) =
      .ok ⟨BitVec.ofNat 12 (Nat.ofDigits 2 (digits.map Bool.toNat).reverse * 2 ^ (12 - digits.length)),
        BitVec.ofNat 12 ((2 ^ digits.length - 1) * 2 ^ (12 - digits.length)), tag⟩

/-- A whitespace-free string that compile accepts is a list of at least one binary digit followed by the string of the
shape in the result, 12 characters in all; and two whitespace-free strings with the same result are the same string.
(From 40_pattern_compiler.md rules R80, R86.) -/
def Obligations.CompileAcceptsOnlyDigitsThenShape : Prop :=
  (∀ (s : List Char) (bp : BitPattern), compileStripped s = .ok bp →
    ∃ digits : List Bool, 1 ≤ digits.length ∧ digits.length + shapeWidth bp.operandShape = 12 ∧
      s = digits.map (fun c => if c then '1' else '0') ++ shapeLetters bp.operandShape) ∧
  (∀ (s s' : List Char) (bp : BitPattern), compileStripped s = .ok bp → compileStripped s' = .ok bp → s = s')

/-- On a whitespace-free string: the leftmost character outside the alphabet is reported whatever stands elsewhere; then
an opcode field that is empty or longer than 12; then a residual that is none of the seven shape strings; then a shape
that does not fill 12 bits with the opcode field. The order of the checks, the width check, the four kinds of error and
which character is reported are the spec's own decisions (D5, D7), a choice the model follows (assumption 10). (From
40_pattern_compiler.md rules R73, R76, R78, R81, R83, 92_eei_decisions.md D5, D7.) -/
def Obligations.CompileReportsTheFirstFailingCheck : Prop :=
  (∀ (before after : List Char) (c : Char), (∀ x ∈ before, x ∈ ['0', '1', 'b', 'd', 'f', 'k']) →
    c ∉ ['0', '1', 'b', 'd', 'f', 'k'] → compileStripped (before ++ c :: after) = .error (.badCharacter c)) ∧
  (∀ field residual : List Char, (∀ x ∈ field, x = '0' ∨ x = '1') →
    (∀ x ∈ residual, x ∈ ['0', '1', 'b', 'd', 'f', 'k']) → (∀ x ∈ residual.head?, x ≠ '0' ∧ x ≠ '1') →
    (field.length = 0 ∨ 12 < field.length →
      compileStripped (field ++ residual) = .error (.badOpcodeLength field.length)) ∧
    (1 ≤ field.length → field.length ≤ 12 → (∀ tag, residual ≠ shapeLetters tag) →
      compileStripped (field ++ residual) = .error (.unknownShape residual)) ∧
    (∀ tag, 1 ≤ field.length → field.length ≤ 12 → residual = shapeLetters tag → field.length + shapeWidth tag ≠ 12 →
      compileStripped (field ++ residual) = .error (.widthMismatch field.length tag)))

/-- For every whitespace set, putting one of its characters anywhere into a pattern leaves the result of compile as it
was. (From 40_pattern_compiler.md rule R74.) -/
def Obligations.WhitespaceIsIgnored : Prop :=
  ∀ (ws before after : List Char) (c : Char), c ∈ ws →
    compileWith ws (before ++ c :: after) = compileWith ws (before ++ after)

/-- For every whitespace set that contains the space and none of 0 1 b d f k, each of the 33 pattern strings compiles to
the same listed entry. (From 40_pattern_compiler.md rule R72, 92_eei_decisions.md D6 and "Named open parameters".) -/
def Obligations.WhitespaceSetLeavesTheTable : Prop :=
  ∀ ws : List Char, ' ' ∈ ws → (∀ c ∈ ['0', '1', 'b', 'd', 'f', 'k'], c ∉ ws) →
    ∀ id : OpcodeId, compileWith ws (opcodePattern id).toList = .ok (opcodeBitPattern id)

/-- A call of the block on a design whose table construction failed stops with that pattern error; on this hardware's
construction from its 33 strings it is the call that step makes. That the stop is a fault of the machine is the
model's choice (assumption 15). (From 40_pattern_compiler.md rule R85, 70_reset_and_hazards.md rule R222.) -/
def Obligations.NoTableNoDecoder : Prop :=
  (∀ (e : PatternError) (s : State), stepBlockWith (.error e) s = .fault (.patternError e)) ∧
  (∀ s : State, stepBlockWith (elaborateTable tableSource) s = stepBlock s)

/-- For every table and word, match returns an entry exactly when it stands in the table, agrees with the word under its
mask, and no entry before it does; it returns none exactly when no entry agrees. (States R95.) -/
def Obligations.MatchIsTheFirstAcceptingEntry : Prop :=
  ∀ (table : List Opcode) (w : Word12),
    (∀ op, matchIn table w = some op ↔ ∃ before after, table = before ++ op :: after ∧
      w &&& op.bitPattern.mask = op.bitPattern.opcode &&& op.bitPattern.mask ∧
      ∀ o ∈ before, w &&& o.bitPattern.mask ≠ o.bitPattern.opcode &&& o.bitPattern.mask) ∧
    (matchIn table w = none ↔ ∀ op ∈ table, w &&& op.bitPattern.mask ≠ op.bitPattern.opcode &&& op.bitPattern.mask)

/-- match returns none exactly for the 12-bit values 0x008 to 0x01F and 0x041 to 0x05F, and decode fails with
UnknownOpcode, carrying the 12-bit value, exactly for the words whose low 12 bits are one of them. (From
30_encoding.md rule R62, 41_opcode_table_and_match.md rule R98, 60_exceptions.md rule R198.) -/
def Obligations.UnmatchedWordsAreTwoRanges : Prop :=
  (∀ w : Word12, matchOpcode w = none ↔
    (0x008 ≤ w.toNat ∧ w.toNat ≤ 0x01F) ∨ (0x041 ≤ w.toNat ∧ w.toNat ≤ 0x05F)) ∧
  (∀ (word : Word16) (v : Word12), decode word = .error (.unknownOpcode v) ↔
    v = word.extractLsb' 0 12 ∧ ((0x008 ≤ v.toNat ∧ v.toNat ≤ 0x01F) ∨ (0x041 ≤ v.toNat ∧ v.toNat ≤ 0x05F)))

/-- If two different entries accept a word, then the word is 0x000, 0x002, 0x003 or 0x004 and the two are tris and nop,
option, sleep or clrwdt in this order; and those four pairs do accept those four words. (From
41_opcode_table_and_match.md rule R96.) -/
def Obligations.OverlapsAreFourPairsWithTris : Prop :=
  ∀ (w : Word12) (a b : OpcodeId), a ≠ .tris → a ≠ b →
    (accepts (opcodeBitPattern a) w = true ∧ accepts (opcodeBitPattern b) w = true ↔
      b = .tris ∧ (w = 0x000#12 ∧ a = .nop ∨ w = 0x002#12 ∧ a = .option ∨ w = 0x003#12 ∧ a = .sleep ∨
        w = 0x004#12 ∧ a = .clrwdt))

/-- For every entry but tris, match of its match value returns it; match of the match value of tris, 0x000, returns nop,
and match of 0x006 and of 0x007 returns tris. (From 41_opcode_table_and_match.md rule R97.) -/
def Obligations.MatchOfOwnMatchValue : Prop :=
  (∀ id : OpcodeId, id ≠ .tris → matchOpcode (opcodeBitPattern id).opcode = some (entryOf id)) ∧
  matchOpcode (opcodeBitPattern .tris).opcode = some (entryOf .nop) ∧
  matchOpcode 0x006#12 = some (entryOf .tris) ∧ matchOpcode 0x007#12 = some (entryOf .tris)

/-- A reordering of the table in which nop, option, sleep and clrwdt all come before tris matches every word as the
shipped table does; in a reordering with tris before one of the four, that one's word fails with InvalidTrisSelector.
(The order of the shipped table is that of assumption 11.) (States R227.) -/
def Obligations.TableOrderMattersForTrisOnly : Prop :=
  ∀ before after : List Opcode, (before ++ entryOf .tris :: after).Perm TABLE →
    ((∀ id ∈ [OpcodeId.nop, .option, .sleep, .clrwdt], entryOf id ∈ before) →
      ∀ w : Word12, matchIn (before ++ entryOf .tris :: after) w = matchOpcode w) ∧
    (∀ p ∈ [(OpcodeId.nop, 0#3), (.option, 2#3), (.sleep, 3#3), (.clrwdt, 4#3)], entryOf p.1 ∈ after →
      decodeIn (before ++ entryOf .tris :: after) (p.2.setWidth 16) = .error (.invalidTrisSelector p.2))

/-- byName of an entry's name returns that entry, and byName of any other string returns none; the 33 names are distinct.
(From 41_opcode_table_and_match.md rule R99.) -/
def Obligations.LookupByNameIsExact : Prop :=
  (∀ id : OpcodeId, byName (opcodeName id) = some (entryOf id)) ∧
  (∀ name : String, (∀ id : OpcodeId, opcodeName id ≠ name) → byName name = none) ∧
  (∀ a b : OpcodeId, opcodeName a = opcodeName b → a = b)

/-- The register check refuses a 5-bit number, with InvalidRegister carrying it, exactly when it is 8 to 15, which is when
its bits 4:3 are 01; any other number gives the register of that number. (States R107.) -/
def Obligations.RegisterCheckRefusesEightToFifteen : Prop :=
  ∀ n : BitVec 5,
    (regfile n = .error (.invalidRegister n) ↔ 8 ≤ n.toNat ∧ n.toNat ≤ 15) ∧
    (n.extractLsb' 3 2 = 0b01#2 ↔ 8 ≤ n.toNat ∧ n.toNat ≤ 15) ∧
    (n.toNat < 8 ∨ 16 ≤ n.toNat → ∃ r : RegisterFile, r.number = n ∧ regfile n = .ok r)

/-- For every operand value, the codec of its shape decodes its encoding to that value. (States R117.) -/
def Obligations.CodecDecodesItsEncoding : Prop :=
  ∀ x : Operand, codecDecode (operandShapeOf x) (codecEncode x) = .ok x

/-- For every shape and every 12-bit value whose bits above the shape's field are 0, if the codec decodes it then the
encoding of the operand is that value. (From 42_operand_codecs.md rule R118.) -/
def Obligations.CodecEncodesWhatItDecoded : Prop :=
  ∀ (tag : OperandShape) (ob : Word12) (x : Operand), ob.toNat < 2 ^ shapeWidth tag →
    codecDecode tag ob = .ok x → codecEncode x = ob

/-- For every shape, two 12-bit values that agree in the bits of the shape's field decode alike, and the only errors are
InvalidRegister with a number 8 to 15 and InvalidTrisSelector with a selector other than 6 and 7. (From
42_operand_codecs.md rule R106.) -/
def Obligations.CodecReadsItsFieldAlone : Prop :=
  ∀ (tag : OperandShape) (ob : Word12),
    (∀ ob' : Word12, ob.toNat % 2 ^ shapeWidth tag = ob'.toNat % 2 ^ shapeWidth tag →
      codecDecode tag ob = codecDecode tag ob') ∧
    (∀ e, codecDecode tag ob = .error e →
      (∃ n : BitVec 5, e = .invalidRegister n ∧ 8 ≤ n.toNat ∧ n.toNat ≤ 15) ∨
      (∃ n : BitVec 3, e = .invalidTrisSelector n ∧ n ≠ 6#3 ∧ n ≠ 7#3))

/-- For every table and word, decode gives the same result for the word and for the word with bits 15 to 12 cleared.
(States R127.) -/
def Obligations.HighBitsAreIgnored : Prop :=
  ∀ (table : List Opcode) (word : Word16), decodeIn table word = decodeIn table (word &&& 0x0FFF#16)

/-- For every table and every change of its entries that keeps each entry's identity and bit pattern, decode gives the
same result for every word. (From 30_encoding.md rule R61, 10_state.md rule R20.) -/
def Obligations.MetadataHasNoInfluence : Prop :=
  ∀ (table : List Opcode) (change : Opcode → Opcode),
    (∀ op ∈ table, (change op).id = op.id ∧ (change op).bitPattern = op.bitPattern) →
    ∀ word : Word16, decodeIn (table.map change) word = decodeIn table word

/-- For each of the fourteen opcodes, every word whose bits 11:6 are its opcode field decodes to it, with the register of
bits 4:0 and the destination of bit 5 (0 working, 1 file), when that number is 0 to 7 or 16 to 31; when it is 8 to 15
it fails with InvalidRegister of that number, whatever the destination. (From 44_byte_oriented_opcodes.md rules R141,
R142, R145 to R151, R154 to R158, 42_operand_codecs.md rule R110.) -/
def Obligations.FileAndDestinationWords : Prop :=
  ∀ word : Word16, ∀ p ∈ ([(.addwf, 0b000111#6), (.andwf, 0b000101#6), (.comf, 0b001001#6), (.decf, 0b000011#6),
       (.decfsz, 0b001011#6), (.incf, 0b001010#6), (.incfsz, 0b001111#6), (.iorwf, 0b000100#6),
       (.movf, 0b001000#6), (.rlf, 0b001101#6), (.rrf, 0b001100#6), (.subwf, 0b000010#6),
       (.swapf, 0b001110#6), (.xorwf, 0b000110#6)] :
      List (OpcodeId × BitVec 6)), word.extractLsb' 6 6 = p.2 →
    (∀ r : RegisterFile, r.number = word.extractLsb' 0 5 → decode word = .ok ⟨p.1, .fileAndDestination r
      (if word.extractLsb' 5 1 = 0#1 then .working else .file)⟩) ∧
    (8 ≤ (word.extractLsb' 0 5).toNat → (word.extractLsb' 0 5).toNat ≤ 15 →
      decode word = .error (.invalidRegister (word.extractLsb' 0 5)))

/-- For clrf and movwf (bits 11:5) and for bcf, bsf, btfsc and btfss (bits 11:8), every word with the opcode field decodes
to the opcode with the register of bits 4:0, and for the bit-oriented ones the bit index of bits 7:5, when that
register number is legal; when it is 8 to 15 it fails with InvalidRegister of that number, whatever the bit index.
(From 44_byte_oriented_opcodes.md rules R143, R152, 45_bit_oriented_opcodes.md rules R159 to R162.) -/
def Obligations.FileAndBitNumberWords : Prop :=
  ∀ word : Word16,
    (∀ p ∈ ([(.clrf, 0b0000011#7), (.movwf, 0b0000001#7)] : List (OpcodeId × BitVec 7)), word.extractLsb' 5 7 = p.2 →
      (∀ r : RegisterFile, r.number = word.extractLsb' 0 5 → decode word = .ok ⟨p.1, .file r⟩) ∧
      (8 ≤ (word.extractLsb' 0 5).toNat → (word.extractLsb' 0 5).toNat ≤ 15 →
        decode word = .error (.invalidRegister (word.extractLsb' 0 5)))) ∧
    (∀ p ∈ ([(.bcf, 0b0100#4), (.bsf, 0b0101#4), (.btfsc, 0b0110#4), (.btfss, 0b0111#4)] :
        List (OpcodeId × BitVec 4)), word.extractLsb' 8 4 = p.2 →
      (∀ r : RegisterFile, r.number = word.extractLsb' 0 5 →
        decode word = .ok ⟨p.1, .fileAndBitNumber r (word.extractLsb' 5 3)⟩) ∧
      (8 ≤ (word.extractLsb' 0 5).toNat → (word.extractLsb' 0 5).toNat ≤ 15 →
        decode word = .error (.invalidRegister (word.extractLsb' 0 5))))

/-- For each Literal opcode every word whose bits 11:8 are its opcode field decodes to it with the byte of bits 7:0, and
every word whose bits 11:9 are 101 decodes to goto with the 9-bit address of bits 8:0; none fails. (From
46_literal_and_control_opcodes.md rules R163, R164, R166 to R168, R170, R173.) -/
def Obligations.LiteralAndGotoWords : Prop :=
  ∀ word : Word16,
    (∀ p ∈ ([(.andlw, 0b1110#4), (.call, 0b1001#4), (.iorlw, 0b1101#4), (.movlw, 0b1100#4),
       (.retlw, 0b1000#4), (.xorlw, 0b1111#4)] :
        List (OpcodeId × BitVec 4)), word.extractLsb' 8 4 = p.2 →
      decode word = .ok ⟨p.1, .literal (word.extractLsb' 0 8)⟩) ∧
    (word.extractLsb' 9 3 = 0b101#3 → decode word = .ok ⟨.goto, .goto (word.extractLsb' 0 9)⟩)

/-- Words 0x000 to 0x007 give nop, InvalidTrisSelector(1), option, sleep, clrwdt, InvalidTrisSelector(5), tris(GPIO) and
tris(CMCON0); 0x008 to 0x01F are unknown; 0x020 to 0x03F are movwf with the register of bits 4:0, or InvalidRegister
for 0x028 to 0x02F. (From 30_encoding.md rule R57, 44_byte_oriented_opcodes.md rule R153,
46_literal_and_control_opcodes.md rules R165, R169, R171, R172.) -/
def Obligations.MiscellaneousRow : Prop :=
  (∀ word : Word16, word.extractLsb' 3 9 = 0#9 → decode word =
    match (word.extractLsb' 0 3).toNat with
    | 0 => .ok ⟨.nop, .noOperands⟩
    | 1 => .error (.invalidTrisSelector 1#3)
    | 2 => .ok ⟨.option, .noOperands⟩
    | 3 => .ok ⟨.sleep, .noOperands⟩
    | 4 => .ok ⟨.clrwdt, .noOperands⟩
    | 5 => .error (.invalidTrisSelector 5#3)
    | 6 => .ok ⟨.tris, .tris .GPIO⟩
    | _ => .ok ⟨.tris, .tris .CMCON0⟩) ∧
  (∀ word : Word16, 0x008 ≤ (word.extractLsb' 0 12).toNat → (word.extractLsb' 0 12).toNat ≤ 0x01F →
    decode word = .error (.unknownOpcode (word.extractLsb' 0 12))) ∧
  (∀ word : Word16, 0x020 ≤ (word.extractLsb' 0 12).toNat → (word.extractLsb' 0 12).toNat ≤ 0x03F →
    (∀ r : RegisterFile, r.number = word.extractLsb' 0 5 → decode word = .ok ⟨.movwf, .file r⟩) ∧
    (0x028 ≤ (word.extractLsb' 0 12).toNat → (word.extractLsb' 0 12).toNat ≤ 0x02F →
      decode word = .error (.invalidRegister (word.extractLsb' 0 5))))

/-- A word decodes to clrw exactly when its low 12 bits are 0x040, and then with no operands; the words 0x041 to 0x05F
fail with UnknownOpcode. (From 44_byte_oriented_opcodes.md rule R144, 30_encoding.md rule R56.) -/
def Obligations.ClrwIsOneWord : Prop :=
  (∀ word : Word16, word.extractLsb' 0 12 = 0x040#12 ↔ decode word = .ok ⟨.clrw, .noOperands⟩) ∧
  (∀ word : Word16, 0x041 ≤ (word.extractLsb' 0 12).toNat → (word.extractLsb' 0 12).toNat ≤ 0x05F →
    decode word = .error (.unknownOpcode (word.extractLsb' 0 12)))

/-- Of the 4096 values of the low 12 bits, 3543 decode, 496 fail with InvalidRegister, 2 with InvalidTrisSelector and 55
with UnknownOpcode. (From 30_encoding.md rule R64.) -/
def Obligations.DecodeOutcomeTotals : Prop :=
  let outcome (n : Nat) : Nat :=
    match decode (BitVec.ofNat 16 n) with
    | .ok _ => 0
    | .error e => decodeErrorCode e
  ((List.range 4096).filter fun n => outcome n == 0).length = 3543 ∧
  ((List.range 4096).filter fun n => outcome n == 2).length = 496 ∧
  ((List.range 4096).filter fun n => outcome n == 3).length = 2 ∧
  ((List.range 4096).filter fun n => outcome n == 1).length = 55

/-- decode fails with InvalidRegister of a number exactly when the word matches one of the twenty opcodes with a register
field, the number is bits 4:0 of the word, and it is 8 to 15. (From 60_exceptions.md rule R199, 30_encoding.md rule
R63.) -/
def Obligations.InvalidRegisterExactly : Prop :=
  ∀ (word : Word16) (n : BitVec 5), decode word = .error (.invalidRegister n) ↔
    n = word.extractLsb' 0 5 ∧ 8 ≤ n.toNat ∧ n.toNat ≤ 15 ∧
    ∃ id ∈ ([.addwf, .andwf, .clrf, .comf, .decf, .decfsz, .incf, .incfsz, .iorwf, .movf,
       .movwf, .rlf, .rrf, .subwf, .swapf, .xorwf, .bcf, .bsf, .btfsc, .btfss] :
        List OpcodeId), matchOpcode (word.extractLsb' 0 12) = some (entryOf id)

/-- decode fails with InvalidTrisSelector of a selector exactly when the low 12 bits of the word are 0x001 or 0x005 and
the selector is bits 2:0; the Tris codec called directly fails so exactly for selectors 0 to 5. (States R200.) -/
def Obligations.InvalidTrisSelectorExactly : Prop :=
  (∀ (word : Word16) (n : BitVec 3), decode word = .error (.invalidTrisSelector n) ↔
    n = word.extractLsb' 0 3 ∧ (word.extractLsb' 0 12 = 0x001#12 ∨ word.extractLsb' 0 12 = 0x005#12)) ∧
  (∀ (ob : Word12) (n : BitVec 3), codecDecode .tris ob = .error (.invalidTrisSelector n) ↔
    n = ob.extractLsb' 0 3 ∧ n.toNat ≤ 5)

/-- With no call of assemble in progress, a step on a word that decodes to an instruction is exec of that instruction at
that state, and on a word that no entry accepts it returns UnknownOpcode of the low 12 bits; with a program word
queued at an address up to 0xFF, the step is exec of that word's instruction at the state with the word on word_i, and
the returned value is collected. That an assembler step takes one word is the model's choice (assumption 13). (From
43_instruction_decoder.md rules R126, R128, R133, 47_program_assembler.md rule R185.) -/
def Obligations.StepRunsTheDecodedInstruction : Prop :=
  (∀ (s : State) (i : Instr), directCall s → decodeInstr s.wordI = .ok i → step s = exec i s) ∧
  (∀ (s : State) (e : DecodeError), directCall s → decodeInstr s.wordI = .error e →
    e = .unknownOpcode (s.wordI.extractLsb' 0 12) ∧ step s = .next (s.afterCall (.error e))) ∧
  (∀ (s t : State) (run : AssemblerRun) (address : Nat) (word : Word16) (later : List (Nat × Word16)) (i : Instr),
    s.assembler = .running run → run.words = (address, word) :: later → address ≤ 0xFF →
    decodeInstr word = .ok i → exec i { s with wordI := word } = .next t →
    step s = .next (collectStatement run address later t))

/-- With no call of assemble in progress, every step answers a next state in which the returned value is decode of the
word on word_i, be it an instruction or an error; the input word, the environment and the model's own field freeIndex
are unchanged. That State keeps the returned value after the call is the model's choice (assumption 4), and so is its
field freeIndex (assumption 6). (From 43_instruction_decoder.md rule R133, 46_literal_and_control_opcodes.md rules R163
to R175, 60_exceptions.md rule R205.) -/
def Obligations.StepReturnsWhatDecodeGives : Prop :=
  ∀ s : State, directCall s → step s = .next (s.afterCall (decode s.wordI))

/-- From two states with no call of assemble in progress, whatever each has returned before (an error in one, an
instruction in the other), a call on the same word returns the same value. (From 60_exceptions.md rule R206,
43_instruction_decoder.md rule R137.) -/
def Obligations.ErrorLeavesNoTrace : Prop :=
  ∀ s s' t t' : State, ∀ word : Word16, directCall s → directCall s' →
    step (s.presents word) = .next t → step (s'.presents word) = .next t' → t.reply = t'.reply ∧ t.reply.isSome = true

/-- For every word and every value of the free outputs, reading the ports as rule R138 says, and only those valid for
the case, gives the result of decode of the word on word_i. How the outputs that are not valid are left free is the
model's choice (assumption 6). (From 43_instruction_decoder.md rule R138.) -/
def Obligations.PortsCarryTheResult : Prop :=
  ∀ s : State, resultOfPorts s.ports = some (decode s.wordI)

/-- status_o is 0 exactly when the word decodes; for an unknown word it is 1 and errval_o is the low 12 bits; for an
invalid register it is 2 and errval_o is the number, for an invalid selector 3 and the selector; opcode_o and shape_o
show the matched entry whenever status_o is not 1. (From 43_instruction_decoder.md rule R138, 60_exceptions.md rule
R197.) -/
def Obligations.PortsOfErrors : Prop :=
  ∀ s : State,
    (s.ports.statusO = 0#2 ↔ ∃ i, decode s.wordI = .ok i) ∧
    (∀ v, decode s.wordI = .error (.unknownOpcode v) →
      s.ports.statusO = 1#2 ∧ s.ports.errvalO = s.wordI.extractLsb' 0 12) ∧
    (∀ n, decode s.wordI = .error (.invalidRegister n) →
      s.ports.statusO = 2#2 ∧ s.ports.errvalO.toNat = n.toNat) ∧
    (∀ n, decode s.wordI = .error (.invalidTrisSelector n) →
      s.ports.statusO = 3#2 ∧ s.ports.errvalO.toNat = n.toNat) ∧
    (s.ports.statusO ≠ 1#2 → ∃ op, matchOpcode (s.wordI.extractLsb' 0 12) = some op ∧
      s.ports.opcodeO.toNat = opcodeIndex op.id ∧ s.ports.shapeO = shapeCode op.bitPattern.operandShape)

/-- With a legal register, each of addwf, andwf, comf, decf, decfsz, incf, incfsz, iorwf, movf, rlf, rrf, subwf, swapf and
xorwf answers a next state that returns its identity with that register and the destination of the bit (0 working, 1
file); the input word and the environment are unchanged. (From 44_byte_oriented_opcodes.md rules R141, R142, R145 to
R151, R154 to R158, 42_operand_codecs.md rule R110.) -/
def Obligations.FileAndDestinationMeanings : Prop :=
  ∀ (s : State) (d : BitVec 1) (r : RegisterFile),
    ∀ p ∈ ([(.addwf d r.number, .addwf), (.andwf d r.number, .andwf), (.comf d r.number, .comf), (.decf d r.number, .decf), (.decfsz d r.number, .decfsz),
       (.incf d r.number, .incf), (.incfsz d r.number, .incfsz), (.iorwf d r.number, .iorwf), (.movf d r.number, .movf), (.rlf d r.number, .rlf),
       (.rrf d r.number, .rrf), (.subwf d r.number, .subwf), (.swapf d r.number, .swapf), (.xorwf d r.number, .xorwf)] :
        List (Instr × OpcodeId)),
      exec p.1 s = .next (s.afterCall (.ok ⟨p.2, .fileAndDestination r (if d = 0#1 then .working else .file)⟩))

/-- With a legal register, clrf and movwf answer a next state that returns their identity with that register; the input
word and the environment are unchanged. (From 44_byte_oriented_opcodes.md rules R143, R152, 42_operand_codecs.md rule
R109.) -/
def Obligations.FileMeanings : Prop :=
  ∀ (s : State) (r : RegisterFile),
    exec (.clrf r.number) s = .next (s.afterCall (.ok ⟨.clrf, .file r⟩)) ∧
    exec (.movwf r.number) s = .next (s.afterCall (.ok ⟨.movwf, .file r⟩))

/-- Each of the five answers a next state, from every state, that returns its identity with no operands; the input word
and the environment are unchanged: decoding sleep puts nothing to sleep. (From 44_byte_oriented_opcodes.md rules R144,
R153, 46_literal_and_control_opcodes.md rules R165, R169, R171, R175, 60_exceptions.md rule R213.) -/
def Obligations.NoOperandMeanings : Prop :=
  ∀ s : State,
    exec .clrw s = .next (s.afterCall (.ok ⟨.clrw, .noOperands⟩)) ∧
    exec .nop s = .next (s.afterCall (.ok ⟨.nop, .noOperands⟩)) ∧
    exec .clrwdt s = .next (s.afterCall (.ok ⟨.clrwdt, .noOperands⟩)) ∧
    exec .option s = .next (s.afterCall (.ok ⟨.option, .noOperands⟩)) ∧
    exec .sleep s = .next (s.afterCall (.ok ⟨.sleep, .noOperands⟩))

/-- With a legal register and any bit index, each of the four answers a next state that returns its identity with them;
the input word and the environment are unchanged. (From 45_bit_oriented_opcodes.md rules R159 to R162,
42_operand_codecs.md rule R111.) -/
def Obligations.FileAndBitNumberMeanings : Prop :=
  ∀ (s : State) (b : BitVec 3) (r : RegisterFile),
    ∀ p ∈ ([(.bcf b r.number, .bcf), (.bsf b r.number, .bsf), (.btfsc b r.number, .btfsc), (.btfss b r.number, .btfss)] :
        List (Instr × OpcodeId)),
      exec p.1 s = .next (s.afterCall (.ok ⟨p.2, .fileAndBitNumber r b⟩))

/-- With any byte, each of the six answers a next state that returns its identity with that byte as a Literal (call too:
no address is computed); the input word and the environment are unchanged. (From 46_literal_and_control_opcodes.md
rules R163, R164, R167, R168, R170, R173, R174, 42_operand_codecs.md rule R112.) -/
def Obligations.LiteralMeanings : Prop :=
  ∀ (s : State) (k : BitVec 8),
    ∀ p ∈ ([(.andlw k, .andlw), (.call k, .call), (.iorlw k, .iorlw), (.movlw k, .movlw), (.retlw k, .retlw),
       (.xorlw k, .xorlw)] :
        List (Instr × OpcodeId)),
      exec p.1 s = .next (s.afterCall (.ok ⟨p.2, .literal k⟩))

/-- goto answers, for every 9-bit address, a next state that returns that address; tris answers one that returns GPIO for
selector 6, CMCON0 for 7, and InvalidTrisSelector of the selector for any other; the input word and the environment
are unchanged. (From 46_literal_and_control_opcodes.md rules R166, R172, 42_operand_codecs.md rules R113, R114.) -/
def Obligations.GotoAndTrisMeanings : Prop :=
  ∀ s : State,
    (∀ k : BitVec 9, exec (.goto k) s = .next (s.afterCall (.ok ⟨.goto, .goto k⟩))) ∧
    exec (.tris 6#3) s = .next (s.afterCall (.ok ⟨.tris, .tris .GPIO⟩)) ∧
    exec (.tris 7#3) s = .next (s.afterCall (.ok ⟨.tris, .tris .CMCON0⟩)) ∧
    (∀ n : BitVec 3, n ≠ 6#3 → n ≠ 7#3 →
      exec (.tris n) s = .next (s.afterCall (.error (.invalidTrisSelector n))))

/-- With a register number 8 to 15, each of the twenty instructions with a register field answers a next state that
returns InvalidRegister of that number, whatever the destination or the bit index; the input word and the environment
are unchanged. (From 42_operand_codecs.md rule R107, 60_exceptions.md rules R199, R205.) -/
def Obligations.ReservedRegisterMeanings : Prop :=
  ∀ (s : State) (d : BitVec 1) (b : BitVec 3) (f : BitVec 5), 8 ≤ f.toNat → f.toNat ≤ 15 →
    ∀ i ∈ ([.addwf d f, .andwf d f, .clrf f, .comf d f, .decf d f, .decfsz d f,
       .incf d f, .incfsz d f, .iorwf d f, .movf d f, .movwf f, .rlf d f,
       .rrf d f, .subwf d f, .swapf d f, .xorwf d f, .bcf b f, .bsf b f,
       .btfsc b f, .btfss b f] : List Instr),
      exec i s = .next (s.afterCall (.error (.invalidRegister f)))

/-- For a record of an even number of bytes from address L, there are half as many words, and word j has address L + j and
the value high byte times 256 plus low byte of the pair j. (States R33.) -/
def Obligations.WordsAreLittleEndianPairs : Prop :=
  ∀ (start : Nat) (bytes : List Byte), bytes.length % 2 = 0 →
    (addressedWords start bytes).length = bytes.length / 2 ∧
    ∀ (j : Nat) (low high : Byte), bytes[2 * j]? = some low → bytes[2 * j + 1]? = some high →
      ∃ word : Word16, (addressedWords start bytes)[j]? = some (start + j, word) ∧
        word = (high.setWidth 16 <<< 8) ||| low.setWidth 16

/-- An odd byte address is UnalignedAddress; at byte address 0x1FFE two bytes emit the configuration word whole and any
other count is BadConfigWordLength; elsewhere an odd count is OddByteCount; a first word above 0xFF is
AddressOutOfRange; no bytes emit nothing; an address extension is accepted only if zero; an end-of-file record must be
last; the three other kinds are refused. Each error carries the record's index. The order of the checks, the zero
extension, the empty record and the index are the spec's own decisions (D16, D17, D23, D24), a choice the model follows
(assumption 17). (From 47_program_assembler.md rules R178, R179, R181, R183, R184, R186, R187, R188, R191, R193,
92_eei_decisions.md D16, D17, D23, D24.) -/
def Obligations.StructuralErrorsOfRecords : Prop :=
  ∀ (k : Nat) (address : Word16) (bytes : List Byte) (rest : List InputRecord),
    (address.toNat % 2 = 1 →
      assembleFrom k (.data address bytes :: rest) = .error (.unalignedAddress k address)) ∧
    (bytes.length ≠ 2 →
      assembleFrom k (.data 0x1FFE#16 bytes :: rest) = .error (.badConfigWordLength k bytes.length)) ∧
    (∀ low high : Byte, assembleFrom k (.data 0x1FFE#16 [low, high] :: rest) =
      (assembleFrom (k + 1) rest).map fun p => .config ((high.setWidth 16 <<< 8) ||| low.setWidth 16) :: p) ∧
    (address.toNat % 2 = 0 → address ≠ 0x1FFE#16 → bytes.length % 2 = 1 →
      assembleFrom k (.data address bytes :: rest) = .error (.oddByteCount k bytes.length)) ∧
    (address.toNat % 2 = 0 → address ≠ 0x1FFE#16 → bytes.length % 2 = 0 → bytes ≠ [] → 0xFF < address.toNat / 2 →
      assembleFrom k (.data address bytes :: rest) = .error (.addressOutOfRange k (address.toNat / 2))) ∧
    (address.toNat % 2 = 0 → address ≠ 0x1FFE#16 →
      assembleFrom k (.data address [] :: rest) = assembleFrom (k + 1) rest) ∧
    assembleFrom k (.extendedLinearAddress 0#16 :: rest) = assembleFrom (k + 1) rest ∧
    (∀ upper : Word16, upper ≠ 0#16 →
      assembleFrom k (.extendedLinearAddress upper :: rest) = .error (.unsupportedAddressExtension k upper)) ∧
    assembleFrom k [.endOfFile] = .ok [] ∧
    (rest ≠ [] → assembleFrom k (.endOfFile :: rest) = .error (.trailingDataAfterEndOfFile k)) ∧
    (∀ kind ∈ [InputRecord.startSegmentAddress, .extendedSegmentAddress, .startLinearAddress],
      assembleFrom k (kind :: rest) = .error (.unsupportedRecordKind k))

/-- If a data record at a byte address other than 0x1FFE is assembled, every word of it has an address up to 0xFF and
decodes, and the statements are those instructions at consecutive logical addresses from half the byte address, one per
word and nothing else. And a record at an even byte address other than 0x1FFE with an even number of bytes, whose words
all have addresses up to 0xFF and decode, is assembled, to those statements. (From 47_program_assembler.md rules R180,
R184, R185, R192, 20_memory.md rule R36.) -/
def Obligations.StatementsAreDecodedWords : Prop :=
  ∀ (k : Nat) (address : Word16) (bytes : List Byte), address ≠ 0x1FFE#16 →
    (∀ p : Program, assembleFrom k [.data address bytes] = .ok p →
      p.length = bytes.length / 2 ∧
      ∀ (j : Nat) (low high : Byte), bytes[2 * j]? = some low → bytes[2 * j + 1]? = some high →
        address.toNat / 2 + j ≤ 0xFF ∧
        ∃ i, decode ((high.setWidth 16 <<< 8) ||| low.setWidth 16) = .ok i ∧
          p[j]? = some (.statement (BitVec.ofNat 8 (address.toNat / 2 + j)) i)) ∧
    (∀ instructions : List Instruction, address.toNat % 2 = 0 → bytes.length = 2 * instructions.length →
      (∀ j, j < instructions.length → address.toNat / 2 + j ≤ 0xFF) →
      (∀ (j : Nat) (low high : Byte) (i : Instruction), bytes[2 * j]? = some low → bytes[2 * j + 1]? = some high →
        instructions[j]? = some i → decode ((high.setWidth 16 <<< 8) ||| low.setWidth 16) = .ok i) →
      assembleFrom k [.data address bytes] =
        .ok (instructions.mapIdx fun j i => .statement (BitVec.ofNat 8 (address.toNat / 2 + j)) i))

/-- For records none of which is an end-of-file record, followed by others: if the first part fails, the whole fails with
that error; if it gives a program, the whole gives that program followed by what the second part gives, or the second
part's error. (From 47_program_assembler.md rules R177, R189, 20_memory.md rule R44.) -/
def Obligations.AssemblyFollowsRecordOrder : Prop :=
  ∀ (k : Nat) (xs ys : List InputRecord), (∀ x ∈ xs, x ≠ .endOfFile) →
    (∀ e, assembleFrom k xs = .error e → assembleFrom k (xs ++ ys) = .error e) ∧
    (∀ p, assembleFrom k xs = .ok p → assembleFrom k (xs ++ ys) = (assembleFrom (k + xs.length) ys).map (p ++ ·))

/-- Every error of assemble carries a 0-based index smaller than the number of input records, and the record at that
index is of the kind that the error is about: TrailingDataAfterEndOfFile is about an end-of-file record,
UnsupportedAddressExtension about an address extension, UnsupportedRecordKind about one of the three rejected kinds, and
each of the other five errors about a data record. That the position is a 0-based index is the spec's own decision D24
(assumption 17). (From 47_program_assembler.md rules R185, R187, R188, R193, 92_eei_decisions.md D24.) -/
def Obligations.AssemblyErrorsCarryARecordIndex : Prop :=
  ∀ (records : List InputRecord) (e : AssembleError), assemble records = .error e →
    ∃ record, records[assembleErrorRecord e]? = some record ∧
      match e with
      | .trailingDataAfterEndOfFile _ => record = .endOfFile
      | .unsupportedAddressExtension _ upper => record = .extendedLinearAddress upper
      | .unsupportedRecordKind _ =>
        record = .startSegmentAddress ∨ record = .extendedSegmentAddress ∨ record = .startLinearAddress
      | .unalignedAddress _ address => ∃ bytes, record = .data address bytes
      | .oddByteCount _ length => ∃ address bytes, record = .data address bytes ∧ bytes.length = length
      | .badConfigWordLength _ length => ∃ bytes, record = .data 0x1FFE#16 bytes ∧ bytes.length = length
      | .addressOutOfRange _ _ => ∃ address bytes, record = .data address bytes
      | .decoder _ _ => ∃ address bytes, record = .data address bytes

/-- From every state in which a call of assemble is begun on given records, after at least one step per record and per
word and one more, the machine has not stopped and the environment has returned exactly assemble of the records: the
program, or the first error and no program. How many steps the run takes is the model's choice (assumption 13). (From
47_program_assembler.md rules R176, R192, 00_scope.md rule R5.) -/
def Obligations.AssemblerRunReturnsAssemble : Prop :=
  ∀ (s : State) (records : List InputRecord) (n : Nat), records.length + wordsIn records + 1 ≤ n →
    ∃ t : State, Host.Core.run Sys2Proof.core n (s.withRecords records) = .next t ∧
      t.assembler = .returned (assemble records)

/-- The state after reset meets the invariant, no call has returned and no assembly has begun. That State keeps a
returned value and the assembler, and holds none and idle at reset, is the model's choice (assumptions 4 and 13); that
word_i and freeIndex are 0 is its choice too (assumptions 5 and 6) and is not claimed. (From 70_reset_and_hazards.md
rules R221, R223, 10_state.md rule R28.) -/
def Obligations.ResetIsGood : Prop :=
  State.reset.good = true ∧ State.reset.reply = none ∧ State.reset.assembler = .idle

/-- From every state in which the returned value and the emitted program are what rules R24 to R26 say such values are
(every instruction's operand has its opcode's shape, every error payload is one of its kind), a step that answers a next
state answers one of which this holds. The invariant also says that queued words belong to the record begun last: that
is bookkeeping of the model's own assembler and its choice (assumption 13). (From 10_state.md rules R24 to R26,
60_exceptions.md rules R198 to R200.) -/
def Obligations.StepKeepsGood : Prop :=
  ∀ s t : State, s.good = true → step s = .next t → t.good = true

/-- From every state a step answers a next state: an error of decode or of assemble is a returned value, and the machine
goes on. (From 43_instruction_decoder.md rule R126, 60_exceptions.md rules R205, R206.) -/
def Obligations.EveryStepAnswers : Prop :=
  ∀ s : State, ∃ t : State, step s = .next t

/-- A step of a call of assemble with no word queued, or whose next word's address is above 0xFF, leaves the input word
and the returned value unchanged; a step on a queued word at an address up to 0xFF puts that word on word_i and returns
decode of it; no such step changes freeIndex. What a single step of the assembler does to word_i and to the returned
value is the model's choice (assumption 13: this holds for the model's grain of steps), and freeIndex is the model's own
field (assumption 6). (From 47_program_assembler.md rules R182, R184, R185, R192, 00_scope.md rule R5.) -/
def Obligations.OnlyTheBlockReplies : Prop :=
  ∀ (s t : State) (run : AssemblerRun), s.assembler = .running run → step s = .next t →
    (run.words = [] → t.wordI = s.wordI ∧ t.reply = s.reply ∧ t.freeIndex = s.freeIndex) ∧
    (∀ address word later, run.words = (address, word) :: later → 0xFF < address →
      t.wordI = s.wordI ∧ t.reply = s.reply ∧ t.freeIndex = s.freeIndex) ∧
    (∀ address word later, run.words = (address, word) :: later → address ≤ 0xFF →
      t.wordI = word ∧ t.reply = some (decode word) ∧ t.freeIndex = s.freeIndex)

/-- For a data record at an even byte address other than 0x1FFE with an even number of bytes, whatever records follow:
if its first n words have addresses up to 0xFF and decode, and the next word has an address up to 0xFF and does not
decode, the result is the decoder's error, kind and payload unchanged, with the record's index; if instead the next
word's address is 0x100 and the record starts at or below 0xFF, the result is AddressOutOfRange of 0x100, whether that
word decodes or not. That the index is 0-based is the spec's own decision D24 (assumption 17). (From
47_program_assembler.md rules R184, R185, R193, 60_exceptions.md rule R207, 92_eei_decisions.md D16, D24.) -/
def Obligations.FirstBadWordEndsTheRecord : Prop :=
  ∀ (k n : Nat) (address : Word16) (bytes : List Byte) (rest : List InputRecord) (low high : Byte),
    address.toNat % 2 = 0 → address ≠ 0x1FFE#16 → bytes.length % 2 = 0 →
    bytes[2 * n]? = some low → bytes[2 * n + 1]? = some high →
    (∀ (j : Nat) (l h : Byte), j < n → bytes[2 * j]? = some l → bytes[2 * j + 1]? = some h →
      ∃ i, decode ((h.setWidth 16 <<< 8) ||| l.setWidth 16) = .ok i) →
    (∀ e : DecodeError, address.toNat / 2 + n ≤ 0xFF →
      decode ((high.setWidth 16 <<< 8) ||| low.setWidth 16) = .error e →
      assembleFrom k (.data address bytes :: rest) = .error (.decoder e k)) ∧
    (address.toNat / 2 ≤ 0xFF → address.toNat / 2 + n = 0x100 →
      assembleFrom k (.data address bytes :: rest) = .error (.addressOutOfRange k 0x100))

/-- From every state, after any number of steps that do not stop, each word put on word_i shows on every output port,
the outputs that are not valid among them, what it would have shown before the steps: nothing that has been decoded or
assembled in between changes an output, and none is stale. That the model's field freeIndex names which functions the
outputs that are not valid are is its choice (assumption 6). (From 70_reset_and_hazards.md rule R223,
43_instruction_decoder.md rule R138, 93_implementation_defined.md U7.) -/
def Obligations.OutputsAreFunctionsOfTheWord : Prop :=
  ∀ (s t : State) (n : Nat) (word : Word16), Host.Core.run Sys2Proof.core n s = .next t →
    (t.presents word).ports = (s.presents word).ports
end

