-- ==== Sys2Proof/Laws/State.lean ====
section
/-! SUPPORT. One lemma per field for each named update of the state. -/

namespace Sys2Proof.Machine

variable (s : State) (word : Word16) (reply : Except DecodeError Instruction) (i : Instruction) (e : DecodeError)
  (a : Assembler) (records : List InputRecord)

@[simp] theorem State.presents_wordI : (s.presents word).wordI = word := rfl
@[simp] theorem State.presents_reply : (s.presents word).reply = s.reply := rfl
@[simp] theorem State.presents_assembler : (s.presents word).assembler = s.assembler := rfl
@[simp] theorem State.presents_freeIndex : (s.presents word).freeIndex = s.freeIndex := rfl

@[simp] theorem State.returns_wordI : (s.returns reply).wordI = s.wordI := rfl
@[simp] theorem State.returns_reply : (s.returns reply).reply = some reply := rfl
@[simp] theorem State.returns_assembler : (s.returns reply).assembler = s.assembler := rfl
@[simp] theorem State.returns_freeIndex : (s.returns reply).freeIndex = s.freeIndex := rfl

@[simp] theorem State.returnsOk_wordI : (s.returnsOk i).wordI = s.wordI := rfl
@[simp] theorem State.returnsOk_reply : (s.returnsOk i).reply = some (.ok i) := rfl
@[simp] theorem State.returnsOk_assembler : (s.returnsOk i).assembler = s.assembler := rfl
@[simp] theorem State.returnsOk_freeIndex : (s.returnsOk i).freeIndex = s.freeIndex := rfl

@[simp] theorem State.raises_wordI : (s.raises e).wordI = s.wordI := rfl
@[simp] theorem State.raises_reply : (s.raises e).reply = some (.error e) := rfl
@[simp] theorem State.raises_assembler : (s.raises e).assembler = s.assembler := rfl
@[simp] theorem State.raises_freeIndex : (s.raises e).freeIndex = s.freeIndex := rfl

@[simp] theorem State.withAssembler_wordI : (s.withAssembler a).wordI = s.wordI := rfl
@[simp] theorem State.withAssembler_reply : (s.withAssembler a).reply = s.reply := rfl
@[simp] theorem State.withAssembler_assembler : (s.withAssembler a).assembler = a := rfl
@[simp] theorem State.withAssembler_freeIndex : (s.withAssembler a).freeIndex = s.freeIndex := rfl

@[simp] theorem State.withRecords_assembler :
    (s.withRecords records).assembler = .running ⟨0, 0, [], records, []⟩ := rfl

end Sys2Proof.Machine
end

