-- ==== Sys2Proof/Laws/Assembler.lean ====
section
/-! SUPPORT. What the operations of the environment can do: opening a record, beginning one, and using a returned value. -/

namespace Sys2Proof.Machine

/-- What a data record gives when it is opened, check by check (rules R179, R181, R183). -/
theorem openData_cases (index : Nat) (address : Word16) (bytes : List Byte) :
    (address.toNat % 2 = 1 ∧ openData index address bytes = .error (.unalignedAddress index address)) ∨
    (address.toNat / 2 = configAddress ∧ bytes.length ≠ 2 ∧
      openData index address bytes = .error (.badConfigWordLength index bytes.length)) ∨
    (∃ low high, address.toNat / 2 = configAddress ∧ bytes = [low, high] ∧
      openData index address bytes = .ok ([.config (wordOfBytes low high)], [])) ∨
    (bytes.length % 2 = 1 ∧ openData index address bytes = .error (.oddByteCount index bytes.length)) ∨
    (address.toNat % 2 = 0 ∧ address.toNat / 2 ≠ configAddress ∧ bytes.length % 2 = 0 ∧
      openData index address bytes = .ok ([], addressedWords (address.toNat / 2) bytes)) := by
  unfold openData
  split_ifs with ha hc hl
  · exact .inl ⟨ha, rfl⟩
  · split
    · exact .inr (.inr (.inl ⟨_, _, hc, rfl, rfl⟩))
    · rename_i h
      refine .inr (.inl ⟨hc, fun h2 => ?_, rfl⟩)
      obtain ⟨low, high, rfl⟩ := List.length_eq_two.1 h2
      exact h low high rfl
  · exact .inr (.inr (.inr (.inl ⟨hl, rfl⟩)))
  · exact .inr (.inr (.inr (.inr ⟨by omega, hc, by omega, rfl⟩)))

@[simp] theorem addressedWords_length (address : Nat) (bytes : List Byte) :
    (addressedWords address bytes).length = bytes.length / 2 := by
  induction bytes using List.twoStepInduction generalizing address with
  | nil => rfl
  | singleton x => simp [addressedWords]
  | cons_cons x y rest ih _ => simp [addressedWords, ih]; omega

/-- Beginning a record changes the environment and nothing else of the state. -/
theorem beginRecord_frame (run : AssemblerRun) (s : State) :
    ∃ a, beginRecord run s = s.withAssembler a := by
  unfold beginRecord
  split
  · exact ⟨_, rfl⟩
  · split <;> exact ⟨_, rfl⟩

/-- What the caller does with a returned value: the statement is emitted, or the call of `assemble` ends with the error. -/
theorem collectStatement_cases (run : AssemblerRun) (address : Nat) (later : List (Nat × Word16)) (s : State)
    (reply : Except DecodeError Instruction) (h : s.reply = some reply) :
    (∃ e, reply = .error e ∧
      collectStatement run address later s = s.withAssembler (.returned (.error (.decoder e run.current)))) ∨
    (∃ i, reply = .ok i ∧ collectStatement run address later s = s.withAssembler (.running
      { run with words := later, out := run.out ++ [.statement (BitVec.ofNat 8 address) i] })) := by
  unfold collectStatement
  rw [h]
  cases reply
  · exact .inl ⟨_, rfl, rfl⟩
  · exact .inr ⟨_, rfl, rfl⟩

end Sys2Proof.Machine
end

