-- ==== Sys2Proof/Laws/Operands.lean ====
section
/-! SUPPORT. What the register check and the operand codecs can answer. -/

namespace Sys2Proof.Machine

theorem registerLegal_iff (n : BitVec 5) : registerLegal n = true ↔ n.toNat < 8 ∨ 16 ≤ n.toNat := by
  simp only [registerLegal, Bool.not_eq_true', Bool.and_eq_false_iff, decide_eq_false_iff_not]
  omega

theorem regfile_of_register (r : RegisterFile) : regfile r.number = .ok r := dif_pos r.legal

theorem regfile_of_illegal {n : BitVec 5} (h : registerLegal n = false) : regfile n = .error (.invalidRegister n) := by
  simp [regfile, h]

/-- The register check answers with the register of its argument, or with the one error, carrying its argument. -/
theorem regfile_cases (n : BitVec 5) :
    (∃ r : RegisterFile, r.number = n ∧ regfile n = .ok r) ∨
    (registerLegal n = false ∧ regfile n = .error (.invalidRegister n)) := by
  by_cases h : registerLegal n = true
  · exact .inl ⟨⟨n, h⟩, rfl, dif_pos h⟩
  · exact .inr ⟨by simpa using h, dif_neg h⟩

/-- A codec answers with an operand of its own shape, or with one of the two errors a codec can raise. -/
theorem codecDecode_cases (tag : OperandShape) (ob : Word12) :
    (∃ x, codecDecode tag ob = .ok x ∧ operandShapeOf x = tag) ∨
    (registerLegal (registerField ob) = false ∧ codecDecode tag ob = .error (.invalidRegister (registerField ob))) ∨
    (tag = .tris ∧ selectorLegal (selectorField ob) = false ∧
      codecDecode tag ob = .error (.invalidTrisSelector (selectorField ob))) := by
  cases tag
  case tris =>
    by_cases h6 : selectorField ob = 6#3
    · exact .inl ⟨.tris .GPIO, by simp [codecDecode, trisDecode, trisOperand, h6], rfl⟩
    · by_cases h7 : selectorField ob = 7#3
      · exact .inl ⟨.tris .CMCON0, by simp [codecDecode, trisDecode, trisOperand, h7], rfl⟩
      · exact .inr (.inr ⟨rfl, by simp [selectorLegal, h6, h7],
          by simp [codecDecode, trisDecode, trisOperand, h6, h7]⟩)
  case noOperands => exact .inl ⟨_, rfl, rfl⟩
  case literal => exact .inl ⟨_, rfl, rfl⟩
  case goto => exact .inl ⟨_, rfl, rfl⟩
  all_goals
    obtain ⟨r, -, hr⟩ | ⟨hl, hr⟩ := regfile_cases (registerField ob)
    · exact .inl (by
        simp [codecDecode, fileDecode, fileOperand, fileAndDestinationDecode, fileAndDestinationOperand,
          fileAndBitNumberDecode, fileAndBitNumberOperand, hr, operandShapeOf])
    · exact .inr (.inl ⟨hl, by
        simp [codecDecode, fileDecode, fileOperand, fileAndDestinationDecode, fileAndDestinationOperand,
          fileAndBitNumberDecode, fileAndBitNumberOperand, hr]⟩)

end Sys2Proof.Machine
end

