-- ==== Sys2Proof/Laws/Table.lean ====
section
/-! SUPPORT. What the matcher can answer. -/

namespace Sys2Proof.Machine

theorem mem_declarationOrder (id : OpcodeId) : id ∈ declarationOrder := by cases id <;> decide

theorem entryOf_mem_TABLE (id : OpcodeId) : entryOf id ∈ TABLE := List.mem_map_of_mem (mem_declarationOrder id)

/-- An entry of the table is the entry of its own identity. -/
theorem eq_entryOf_of_mem {op : Opcode} (h : op ∈ TABLE) : op = entryOf op.id := by
  obtain ⟨id, -, rfl⟩ := List.mem_map.1 h
  rfl

/-- What the matcher answers on any table: an entry of it that accepts the word. -/
theorem matchIn_some {table : List Opcode} {w : Word12} {op : Opcode} (h : matchIn table w = some op) :
    op ∈ table ∧ accepts op.bitPattern w = true := by
  have hf : table.find? (fun o => accepts o.bitPattern w) = some op := h
  exact ⟨List.mem_of_find?_eq_some hf, by simpa using List.find?_some hf⟩

theorem matchIn_none {table : List Opcode} {w : Word12} (h : matchIn table w = none) :
    ∀ op ∈ table, accepts op.bitPattern w = false := fun op ho => by
  simpa using List.find?_eq_none.1 h op ho

/-- What the matcher answers on the shipped table: the entry of an identity whose pattern accepts the word. -/
theorem matchOpcode_some {w : Word12} {op : Opcode} (h : matchOpcode w = some op) :
    op = entryOf op.id ∧ accepts (opcodeBitPattern op.id) w = true := by
  obtain ⟨hm, ha⟩ := matchIn_some h
  have he := eq_entryOf_of_mem hm
  rw [he] at ha
  exact ⟨he, ha⟩

end Sys2Proof.Machine
end

