-- ==== Sys2Proof/Laws/Exec.lean ====
section
/-! SUPPORT. What a meaning, a call of the block and an action of the environment can do. -/

namespace Sys2Proof.Machine

/-- What the shared operation of the meanings can do: it returns the codec's error, or the operand with the identity. -/
theorem State.answers_cases (s : State) (id : OpcodeId) (x : Except DecodeError Operand) :
    (∃ e, x = .error e ∧ s.answers id x = .next (s.raises e)) ∨
    (∃ o, x = .ok o ∧ s.answers id x = .next (s.returnsOk ⟨id, o⟩)) := by
  cases x
  · exact .inl ⟨_, rfl, rfl⟩
  · exact .inr ⟨_, rfl, rfl⟩

/-- A meaning does to the operand fields what the codec of its opcode's shape does to the operand bits. -/
theorem exec_instrOf (id : OpcodeId) (ob : Word12) (s : State) :
    exec (instrOf id ob) s = s.answers id (codecDecode (opcodeBitPattern id).operandShape ob) := by
  cases id <;> rfl

/-- Every meaning is an answer under its own identity. -/
theorem exec_answers (i : Instr) (s : State) : ∃ x, exec i s = s.answers (instrId i) x := by
  cases i <;> first | exact ⟨.ok _, rfl⟩ | exact ⟨_, rfl⟩

/-- Every meaning returns a value and changes nothing else. -/
theorem exec_returns (i : Instr) (s : State) : ∃ reply, exec i s = .next (s.returns reply) := by
  obtain ⟨x, hx⟩ := exec_answers i s
  obtain ⟨e, -, h⟩ | ⟨o, -, h⟩ := s.answers_cases (instrId i) x
  · exact ⟨_, hx.trans h⟩
  · exact ⟨_, hx.trans h⟩

/-- Every call of the block returns a value and changes nothing else. -/
theorem stepBlock_returns (s : State) : ∃ reply, stepBlock s = .next (s.returns reply) := by
  unfold stepBlock stepBlockWith
  simp only
  split
  · exact ⟨_, rfl⟩
  · exact exec_returns _ s

/-- What an action of the environment can do: refuse an address, begin a record or return, or have one word decoded. -/
theorem stepAssembler_cases (run : AssemblerRun) (s : State) :
    (run.words = [] ∧ stepAssembler run s = .next (beginRecord run s)) ∨
    (∃ address word later, run.words = (address, word) :: later ∧ lastProgramAddress < address ∧
      stepAssembler run s = .next (s.withAssembler (.returned (.error (.addressOutOfRange run.current address))))) ∨
    (∃ address word later reply, run.words = (address, word) :: later ∧ address ≤ lastProgramAddress ∧
      stepBlock (s.presents word) = .next ((s.presents word).returns reply) ∧
      stepAssembler run s = .next (collectStatement run address later ((s.presents word).returns reply))) := by
  unfold stepAssembler
  rcases hw : run.words with _ | ⟨⟨address, word⟩, later⟩
  · exact .inl ⟨rfl, rfl⟩
  · by_cases ha : lastProgramAddress < address
    · exact .inr (.inl ⟨address, word, later, rfl, ha, if_pos ha⟩)
    · obtain ⟨reply, hr⟩ := stepBlock_returns (s.presents word)
      exact .inr (.inr ⟨address, word, later, reply, rfl, by omega, hr, by simp only [if_neg ha, hr]⟩)

end Sys2Proof.Machine
end

