-- ==== Sys2Proof/Laws/Match.lean ====
section
/-! SUPPORT. Matching as arithmetic: an entry accepts the words of one aligned block of numbers, so facts about which entry
matches which words reduce to linear arithmetic on the word's number. -/

namespace Sys2Proof.Machine

/-- Masking with a run of ones from bit 11 down clears the `k` low bits. -/
theorem and_highMask (w : Word12) (k : Nat) (hk : k ≤ 12) :
    w &&& BitVec.ofNat 12 ((2 ^ (12 - k) - 1) * 2 ^ k) = (w >>> k) <<< k := by
  ext i hi
  have hm : (BitVec.ofNat 12 ((2 ^ (12 - k) - 1) * 2 ^ k))[i] = decide (k ≤ i) := by
    rw [BitVec.getElem_eq_testBit_toNat, BitVec.toNat_ofNat, Nat.testBit_mod_two_pow, ← Nat.shiftLeft_eq,
      Nat.testBit_shiftLeft, Nat.testBit_two_pow_sub_one]
    by_cases h : k ≤ i <;> simp [h, hi]
    omega
  rw [BitVec.getElem_and, hm, BitVec.getElem_shiftLeft, BitVec.getElem_ushiftRight]
  by_cases h : k ≤ i
  · have e : k + (i - k) = i := by omega
    simp [h, e, BitVec.getLsbD_eq_getElem hi]
  · simp [h]

theorem toNat_clearLow_ushiftRight (x : Word12) (k : Nat) : (((x >>> k) <<< k) >>> k).toNat = x.toNat / 2 ^ k := by
  have hx : x.toNat / 2 ^ k * 2 ^ k < 4096 := lt_of_le_of_lt (Nat.div_mul_le_self _ _) x.isLt
  simp [Nat.shiftLeft_eq, Nat.shiftRight_eq_div_pow, Nat.mod_eq_of_lt hx]

/-- The number of operand bits of an entry. -/
def entryWidth (id : OpcodeId) : Nat := shapeWidth (opcodeBitPattern id).operandShape

/-- The number of an entry's block among the blocks of its width. -/
def entryBlock (id : OpcodeId) : Nat := (opcodeBitPattern id).opcode.toNat / 2 ^ entryWidth id

theorem entryWidth_le (id : OpcodeId) : entryWidth id ≤ 12 := by cases id <;> decide

theorem entryMask (id : OpcodeId) :
    (opcodeBitPattern id).mask = BitVec.ofNat 12 ((2 ^ (12 - entryWidth id) - 1) * 2 ^ entryWidth id) := by
  cases id <;> rfl

/-- An entry accepts exactly the words of its block. -/
theorem accepts_iff (id : OpcodeId) (w : Word12) :
    accepts (opcodeBitPattern id) w = true ↔ w.toNat / 2 ^ entryWidth id = entryBlock id := by
  unfold accepts entryBlock
  rw [beq_iff_eq, entryMask id, and_highMask _ _ (entryWidth_le id), and_highMask _ _ (entryWidth_le id)]
  generalize entryWidth id = k
  constructor
  · intro h
    simpa only [toNat_clearLow_ushiftRight] using congrArg (fun x : Word12 => (x >>> k).toNat) h
  · intro h
    have hs : w >>> k = (opcodeBitPattern id).opcode >>> k := by
      apply BitVec.eq_of_toNat_eq
      simpa [Nat.shiftRight_eq_div_pow] using h
    rw [hs]

/-- `match` as the first accepting identity. -/
def matchId (w : Word12) : Option OpcodeId := declarationOrder.find? fun id => accepts (opcodeBitPattern id) w

theorem matchOpcode_eq_map (w : Word12) : matchOpcode w = (matchId w).map entryOf := List.find?_map ..

theorem matchIn_TABLE (w : Word12) : matchIn TABLE w = (matchId w).map entryOf := matchOpcode_eq_map w

/-- What `decode` gives on the shipped table, by the identity that matches. -/
theorem decode_eq_matchId (word : Word16) : decode word =
    match matchId (significantBits word) with
    | none => .error (.unknownOpcode (significantBits word))
    | some id =>
      match codecDecode (opcodeBitPattern id).operandShape
          (operandBits (opcodeBitPattern id) (significantBits word)) with
      | .error e => .error e
      | .ok x => .ok ⟨id, x⟩ := by
  unfold decode decodeIn
  rw [matchIn_TABLE]
  cases matchId (significantBits word) <;> rfl

end Sys2Proof.Machine
end

