-- ==== Sys2Proof/Laws/PatternCompiler.lean ====
section
/-! SUPPORT. What the pattern compiler can answer on a whitespace-free string, check by check. -/

namespace Sys2Proof.Machine

/-- The opcode field and the residual are the whole string (rules R75, R78). -/
theorem opcodeField_append_residualOf (s : List Char) : opcodeField s ++ residualOf s = s :=
  List.takeWhile_append_dropWhile

/-- The shape strings are distinct, and each is found as its own shape (rules R78, R80). -/
@[simp] theorem shapeOfResidual_shapeLetters (tag : OperandShape) : shapeOfResidual (shapeLetters tag) = some tag := by
  cases tag <;> decide

theorem shapeOfResidual_some {residual : List Char} {tag : OperandShape} (h : shapeOfResidual residual = some tag) :
    residual = shapeLetters tag := by
  have hf : (shapeLetters tag == residual) = true := List.find?_some (p := fun t => shapeLetters t == residual) h
  exact (eq_of_beq hf).symm

@[simp] theorem shapeLetters_length (tag : OperandShape) : (shapeLetters tag).length = shapeWidth tag := by
  cases tag <;> rfl

/-- Every answer of the compiler, with the check that gives it (rule R83). -/
theorem compileStripped_cases (s : List Char) :
    (∃ c, firstBadCharacter s = some c ∧ compileStripped s = .error (.badCharacter c)) ∨
    (firstBadCharacter s = none ∧ ((opcodeField s).length = 0 ∨ 12 < (opcodeField s).length) ∧
      compileStripped s = .error (.badOpcodeLength (opcodeField s).length)) ∨
    (firstBadCharacter s = none ∧ shapeOfResidual (residualOf s) = none ∧
      compileStripped s = .error (.unknownShape (residualOf s))) ∨
    (∃ tag, firstBadCharacter s = none ∧ residualOf s = shapeLetters tag ∧
      (opcodeField s).length + shapeWidth tag ≠ 12 ∧
      compileStripped s = .error (.widthMismatch (opcodeField s).length tag)) ∨
    (∃ tag, firstBadCharacter s = none ∧ residualOf s = shapeLetters tag ∧ 1 ≤ (opcodeField s).length ∧
      (opcodeField s).length + shapeWidth tag = 12 ∧ compileStripped s =
        .ok ⟨BitVec.ofNat 12 ((accumulateOpcode (0, 0) (opcodeField s)).1 * 2 ^ (12 - (opcodeField s).length)),
          BitVec.ofNat 12 ((accumulateOpcode (0, 0) (opcodeField s)).2 * 2 ^ (12 - (opcodeField s).length)), tag⟩) := by
  unfold compileStripped
  split
  · exact .inl ⟨_, ‹_›, rfl⟩
  · rename_i hb
    simp only
    split_ifs with hn
    · exact .inr (.inl ⟨hb, hn, rfl⟩)
    · split
      · exact .inr (.inr (.inl ⟨hb, ‹_›, rfl⟩))
      · rename_i tag ht
        split_ifs with hw
        · exact .inr (.inr (.inr (.inr ⟨tag, hb, shapeOfResidual_some ht, by omega, hw, rfl⟩)))
        · exact .inr (.inr (.inr (.inl ⟨tag, hb, shapeOfResidual_some ht, hw, rfl⟩)))

end Sys2Proof.Machine
end

