-- ==== Sys2Proof/Laws/PerInstr.lean ====
section
/-! SUPPORT. The family OwnRow: an instruction's encoding is accepted by its own table row, and the operand bits that the row
leaves give the instruction back. One lemma per constructor of Instr. -/

namespace Sys2Proof.Laws.OwnRow

open Machine

/-- The row of an instruction's opcode. -/
abbrev rowOf (i : Instr) : BitPattern := opcodeBitPattern (instrId i)

/-- The encoding stands in the row's words, and its operand fields stand where the row's format has them. -/
abbrev Statement (i : Instr) : Prop :=
  accepts (rowOf i) (encode i) = true ∧ instrOf (instrId i) (operandBits (rowOf i) (encode i)) = i

set_option maxRecDepth 8000

theorem addwf : ∀ d f, Statement (.addwf d f) := by decide +kernel

theorem andwf : ∀ d f, Statement (.andwf d f) := by decide +kernel

theorem clrf : ∀ f, Statement (.clrf f) := by decide +kernel

theorem clrw : Statement .clrw := by decide +kernel

theorem comf : ∀ d f, Statement (.comf d f) := by decide +kernel

theorem decf : ∀ d f, Statement (.decf d f) := by decide +kernel

theorem decfsz : ∀ d f, Statement (.decfsz d f) := by decide +kernel

theorem incf : ∀ d f, Statement (.incf d f) := by decide +kernel

theorem incfsz : ∀ d f, Statement (.incfsz d f) := by decide +kernel

theorem iorwf : ∀ d f, Statement (.iorwf d f) := by decide +kernel

theorem movf : ∀ d f, Statement (.movf d f) := by decide +kernel

theorem movwf : ∀ f, Statement (.movwf f) := by decide +kernel

theorem nop : Statement .nop := by decide +kernel

theorem rlf : ∀ d f, Statement (.rlf d f) := by decide +kernel

theorem rrf : ∀ d f, Statement (.rrf d f) := by decide +kernel

theorem subwf : ∀ d f, Statement (.subwf d f) := by decide +kernel

theorem swapf : ∀ d f, Statement (.swapf d f) := by decide +kernel

theorem xorwf : ∀ d f, Statement (.xorwf d f) := by decide +kernel

theorem bcf : ∀ b f, Statement (.bcf b f) := by decide +kernel

theorem bsf : ∀ b f, Statement (.bsf b f) := by decide +kernel

theorem btfsc : ∀ b f, Statement (.btfsc b f) := by decide +kernel

theorem btfss : ∀ b f, Statement (.btfss b f) := by decide +kernel

theorem andlw : ∀ k, Statement (.andlw k) := by decide +kernel

theorem call : ∀ k, Statement (.call k) := by decide +kernel

theorem clrwdt : Statement .clrwdt := by decide +kernel

theorem goto : ∀ k, Statement (.goto k) := by decide +kernel

theorem iorlw : ∀ k, Statement (.iorlw k) := by decide +kernel

theorem movlw : ∀ k, Statement (.movlw k) := by decide +kernel

theorem option : Statement .option := by decide +kernel

theorem retlw : ∀ k, Statement (.retlw k) := by decide +kernel

theorem sleep : Statement .sleep := by decide +kernel

theorem tris : ∀ f, Statement (.tris f) := by decide +kernel

theorem xorlw : ∀ k, Statement (.xorlw k) := by decide +kernel

end Sys2Proof.Laws.OwnRow
end

