-- ==== Sys2Proof/Machine/Flags.lean ====
section
/-! DEFINITION. The flags. The block has no flag state and no instruction computes a flag (rule R15): a flag is metadata
attached to a table entry. The entries of `TABLE` carry uninterpreted constants (Config, decisions D8 and D9); this file keeps
the values that rule R61 lists for information. PRESUMED by the spec itself (GK2, GK3); no other definition reads them, and no
statement rests on them (assumption 7). -/

namespace Sys2Proof.Machine

/-- The empty set of status flags. -/
def noFlags : StatusFlags := ⟨false, false, false, false, false, false, false⟩

/-- Carry, DigitCarry and Zero. -/
def arithmeticFlags : StatusFlags := { noFlags with carry := true, digitCarry := true, zero := true }

/-- Zero alone. -/
def zeroFlag : StatusFlags := { noFlags with zero := true }

/-- Carry alone. -/
def carryFlag : StatusFlags := { noFlags with carry := true }

/-- NotTimeOut and NotPowerDown. -/
def powerFlags : StatusFlags := { noFlags with notTimeOut := true, notPowerDown := true }

/-- The status flags that rule R61 lists for an entry, for information only. -/
def listedStatusBits : OpcodeId → StatusFlags
  | .addwf | .subwf => arithmeticFlags
  | .andwf | .clrf | .clrw | .comf | .decf | .incf | .iorwf | .movf | .xorwf | .andlw | .iorlw | .xorlw => zeroFlag
  | .rlf | .rrf => carryFlag
  | .clrwdt | .sleep => powerFlags
  | .decfsz | .incfsz | .movwf | .nop | .swapf | .bcf | .bsf | .btfsc | .btfss => noFlags
  | .call | .goto | .movlw | .option | .retlw | .tris => noFlags

/-- The cycles that rule R61 lists for an entry, for information only; a conditional skip is stored as 1. -/
def listedCycles : OpcodeId → Nat
  | .call | .goto | .retlw => 2
  | .addwf | .andwf | .clrf | .clrw | .comf | .decf | .decfsz | .incf | .incfsz | .iorwf | .movf | .movwf | .nop => 1
  | .rlf | .rrf | .subwf | .swapf | .xorwf | .bcf | .bsf | .btfsc | .btfss | .andlw | .clrwdt | .iorlw | .movlw => 1
  | .option | .sleep | .tris | .xorlw => 1

end Sys2Proof.Machine
end

