-- ==== Sys2Proof/Tests/Slice0.lean ====
section
/-! SUPPORT. Tests. Expected results are taken from the spec: the encodings of rules R141 to R173, the examples of rule R139 and the
vectors of 95_test_vectors.md (V1 to V13, E1 to E13), named at each test. At the end, one witness per statement that has
hypotheses: values that meet them together, each clause at a boundary of its range. -/

namespace Sys2Proof.Tests

open Machine

/-- The state after reset with a word on the input port. -/
def withWord (word : Word16) : State := State.reset.presents word

/-- What a step's call returned, when the step answers a next state. -/
def replyOf : Host.Outcome State Fault Refusal → Option (Except DecodeError Instruction)
  | .next t => t.reply
  | .fault _ => none
  | .refused _ => none

/-- The environment after a step, when the step answers a next state. -/
def assemblerOf : Host.Outcome State Fault Refusal → Option Assembler
  | .next t => some t.assembler
  | .fault _ => none
  | .refused _ => none

/-- The legal registers of the tests: numbers 0, 5, 6, 7, 16 and 31. -/
def r0 : RegisterFile := ⟨0#5, by decide⟩
def r5 : RegisterFile := ⟨5#5, by decide⟩
def r6 : RegisterFile := ⟨6#5, by decide⟩
def r7 : RegisterFile := ⟨7#5, by decide⟩
def r16 : RegisterFile := ⟨16#5, by decide⟩
def r31 : RegisterFile := ⟨31#5, by decide⟩

/-! ### The checks of WellFormed refuse an ill-formed term (rules R23, R107, R114) -/

theorem test_wf_register_8_is_refused : ([.addwf 0#1 8#5, .andwf 1#1 8#5, .clrf 8#5, .comf 0#1 8#5, .decf 0#1 8#5,
    .decfsz 0#1 8#5, .incf 0#1 8#5, .incfsz 0#1 8#5, .iorwf 0#1 8#5, .movf 0#1 8#5, .movwf 8#5, .rlf 0#1 8#5, .rrf 0#1 8#5,
    .subwf 0#1 8#5, .swapf 0#1 8#5, .xorwf 0#1 8#5, .bcf 0#3 8#5, .bsf 0#3 8#5, .btfsc 0#3 8#5, .btfss 0#3 8#5] :
    List Instr).all (fun i => !wellFormed i) = true := by decide

theorem test_wf_register_edges : wellFormed (.clrf 7#5) = true ∧ wellFormed (.clrf 15#5) = false ∧
    wellFormed (.clrf 16#5) = true ∧ wellFormed (.clrf 31#5) = true := by decide

theorem test_wf_selector : wellFormed (.tris 5#3) = false ∧ wellFormed (.tris 0#3) = false ∧ wellFormed (.tris 6#3) = true ∧
    wellFormed (.tris 7#3) = true := by decide

/-! ### Decoding: one word per constructor, written bit by bit from its rule R141 to R173 -/

theorem test_decode_addwf : decodeTableWord 16 0b0001_11_1_00110 = some (.addwf 1#1 6#5) := by decide

theorem test_decode_andwf : decodeTableWord 16 0b0001_01_0_10001 = some (.andwf 0#1 17#5) := by decide

theorem test_decode_clrf : decodeTableWord 16 0b0000_011_00110 = some (.clrf 6#5) := by decide

theorem test_decode_clrw : decodeTableWord 16 0b0000_0100_0000 = some .clrw := by decide

theorem test_decode_comf : decodeTableWord 16 0b0010_01_1_00011 = some (.comf 1#1 3#5) := by decide

theorem test_decode_decf : decodeTableWord 16 0b0000_11_0_00111 = some (.decf 0#1 7#5) := by decide

theorem test_decode_decfsz : decodeTableWord 16 0b0010_11_1_10000 = some (.decfsz 1#1 16#5) := by decide

theorem test_decode_incf : decodeTableWord 16 0b0010_10_0_00001 = some (.incf 0#1 1#5) := by decide

theorem test_decode_incfsz : decodeTableWord 16 0b0011_11_0_11111 = some (.incfsz 0#1 31#5) := by decide

theorem test_decode_iorwf : decodeTableWord 16 0b0001_00_1_00100 = some (.iorwf 1#1 4#5) := by decide

theorem test_decode_movf : decodeTableWord 16 0b0010_00_0_00110 = some (.movf 0#1 6#5) := by decide

theorem test_decode_movwf : decodeTableWord 16 0b0000_001_00101 = some (.movwf 5#5) := by decide

theorem test_decode_nop : decodeTableWord 16 0b0000_0000_0000 = some .nop := by decide

theorem test_decode_rlf : decodeTableWord 16 0b0011_01_1_10010 = some (.rlf 1#1 18#5) := by decide

theorem test_decode_rrf : decodeTableWord 16 0b0011_00_0_10011 = some (.rrf 0#1 19#5) := by decide

theorem test_decode_subwf : decodeTableWord 16 0b0000_10_1_00010 = some (.subwf 1#1 2#5) := by decide

theorem test_decode_swapf : decodeTableWord 16 0b0011_10_1_00101 = some (.swapf 1#1 5#5) := by decide

theorem test_decode_xorwf : decodeTableWord 16 0b0001_10_0_01000 = some (.xorwf 0#1 8#5) := by decide

theorem test_decode_bcf : decodeTableWord 16 0b0100_110_00110 = some (.bcf 6#3 6#5) := by decide

theorem test_decode_bsf : decodeTableWord 16 0b0101_001_00011 = some (.bsf 1#3 3#5) := by decide

theorem test_decode_btfsc : decodeTableWord 16 0b0110_111_10000 = some (.btfsc 7#3 16#5) := by decide

theorem test_decode_btfss : decodeTableWord 16 0b0111_010_00011 = some (.btfss 2#3 3#5) := by decide

theorem test_decode_andlw : decodeTableWord 16 0b1110_1010_0101 = some (.andlw 0xA5#8) := by decide

theorem test_decode_call : decodeTableWord 16 0b1001_0000_1011 = some (.call 0x0B#8) := by decide

theorem test_decode_clrwdt : decodeTableWord 16 0b0000_0000_0100 = some .clrwdt := by decide

theorem test_decode_goto : decodeTableWord 16 0b101_1_1101_1000 = some (.goto 0x1D8#9) := by decide

theorem test_decode_iorlw : decodeTableWord 16 0b1101_0101_1010 = some (.iorlw 0x5A#8) := by decide

theorem test_decode_movlw : decodeTableWord 16 0b1100_0001_1100 = some (.movlw 0x1C#8) := by decide

theorem test_decode_option : decodeTableWord 16 0b0000_0000_0010 = some .option := by decide

theorem test_decode_retlw : decodeTableWord 16 0b1000_1000_0000 = some (.retlw 0x80#8) := by decide

theorem test_decode_sleep : decodeTableWord 16 0b0000_0000_0011 = some .sleep := by decide

theorem test_decode_tris : decodeTableWord 16 0b0000_0000_0_111 = some (.tris 7#3) := by decide

theorem test_decode_xorlw : decodeTableWord 16 0b1111_1111_1110 = some (.xorlw 0xFE#8) := by decide

/-- Words that no entry accepts are refused by name (rule R62, V12b). -/
theorem test_decode_unknown : decodeInstr 0x0008#16 = .error (.unknownOpcode 0x008#12) ∧
    decodeInstr 0x001F#16 = .error (.unknownOpcode 0x01F#12) ∧ decodeInstr 0x8041#16 = .error (.unknownOpcode 0x041#12) ∧
    decodeInstr 0x005F#16 = .error (.unknownOpcode 0x05F#12) := by decide

/-- The low byte comes first (rule R33; V13: bytes 0x1C, 0x0C are movlw 0x1C), and the bytes after the pair are left. -/
theorem test_decode_bytes : decodeBytes [0x1C#8, 0x0C#8, 0x40#8] = some (.ok (.movlw 0x1C#8), [0x40#8]) := by decide

theorem test_encode : encode (.decfsz 1#1 16#5) = 0x2F0#12 ∧ encode (.btfss 2#3 3#5) = 0x743#12 ∧
    encode (.goto 0x1D8#9) = 0xBD8#12 ∧ encodeBytes (.movwf 5#5) = [0x25#8, 0x00#8] := by decide

/-! ### One step from reset, one word per operand shape and per error (rule R139, V10 to V12b) -/

/-- E7. -/
theorem test_step_clrw : replyOf (step (State.reset.withFetchWord 16 0x0040)) = some (.ok ⟨.clrw, .noOperands⟩) := by decide

/-- E8. -/
theorem test_step_clrf : replyOf (step (State.reset.withFetchWord 16 0x0066)) = some (.ok ⟨.clrf, .file r6⟩) := by decide

/-- E9. -/
theorem test_step_clrf_reserved : replyOf (step (State.reset.withFetchWord 16 0x0068)) = some (.error (.invalidRegister 8#5)) := by decide

/-- V10. -/
theorem test_step_addwf_working : replyOf (step (State.reset.withFetchWord 16 0x01D0)) = some (.ok ⟨.addwf, .fileAndDestination r16 .working⟩) := by decide

/-- V10. -/
theorem test_step_addwf_file_high_bits : replyOf (step (State.reset.withFetchWord 16 0xF1FF)) = some (.ok ⟨.addwf, .fileAndDestination r31 .file⟩) := by decide

/-- V10. -/
theorem test_step_iorwf_reserved : replyOf (step (State.reset.withFetchWord 16 0x012F)) = some (.error (.invalidRegister 15#5)) := by decide

/-- V12d. -/
theorem test_step_bsf : replyOf (step (State.reset.withFetchWord 16 0x05C6)) = some (.ok ⟨.bsf, .fileAndBitNumber r6 6#3⟩) := by decide

/-- V12. -/
theorem test_step_movlw : replyOf (step (State.reset.withFetchWord 16 0x0C1C)) = some (.ok ⟨.movlw, .literal 0x1C#8⟩) := by decide

/-- V12. -/
theorem test_step_call : replyOf (step (State.reset.withFetchWord 16 0x59FF)) = some (.ok ⟨.call, .literal 0xFF#8⟩) := by decide

/-- V12. -/
theorem test_step_goto : replyOf (step (State.reset.withFetchWord 16 0x0BD8)) = some (.ok ⟨.goto, .goto 0x1D8#9⟩) := by decide

/-- P2. -/
theorem test_step_tris : replyOf (step (State.reset.withFetchWord 16 0xF007)) = some (.ok ⟨.tris, .tris .CMCON0⟩) := by decide

/-- V12b. -/
theorem test_step_tris_1 : replyOf (step (State.reset.withFetchWord 16 0x0001)) = some (.error (.invalidTrisSelector 1#3)) := by decide

/-- V12b. -/
theorem test_step_sleep : replyOf (step (State.reset.withFetchWord 16 0xF003)) = some (.ok ⟨.sleep, .noOperands⟩) := by decide

/-- V12b. -/
theorem test_step_unknown : replyOf (step (State.reset.withFetchWord 16 0xF008)) = some (.error (.unknownOpcode 0x008#12)) := by decide

/-! ### The pattern compiler (V1b) -/

theorem test_compile_accepts : compile "00 01\t11d f ffff" = .ok ⟨0x1C0#12, 0xFC0#12, .fileAndDestination⟩ ∧
    compile "1010 bbbfffff" = .ok ⟨0xA00#12, 0xF00#12, .fileAndBitNumber⟩ ∧
    compile "111111111111" = .ok ⟨0xFFF#12, 0xFFF#12, .noOperands⟩ := by decide

theorem test_compile_refuses : compile "" = .error (.badOpcodeLength 0) ∧
    compile "0101 0101 0101 0" = .error (.badOpcodeLength 13) ∧ compile "0001 11DF FFFF" = .error (.badCharacter 'D') ∧
    compile "0001 11fd ffff" = .error (.unknownShape ['f', 'd', 'f', 'f', 'f', 'f']) ∧
    compile "1111 kkkkkkkkk" = .error (.widthMismatch 4 .goto) := by decide

/-! ### The ports (V12d): the valid outputs only -/

theorem test_ports_bsf : (withWord 0x05C6#16).ports.statusO = 0#2 ∧ (withWord 0x05C6#16).ports.opcodeO = 19#6 ∧
    (withWord 0x05C6#16).ports.shapeO = 3#3 ∧ (withWord 0x05C6#16).ports.regO = 6#5 ∧
    (withWord 0x05C6#16).ports.bitO = 6#3 := by decide

theorem test_ports_addwf : (withWord 0x01E3#16).ports.opcodeO = 0#6 ∧ (withWord 0x01E3#16).ports.regO = 3#5 ∧
    (withWord 0x01E3#16).ports.destO = 1#1 := by decide

theorem test_ports_errors : (withWord 0x0005#16).ports.statusO = 3#2 ∧ (withWord 0x0005#16).ports.opcodeO = 31#6 ∧
    (withWord 0x0005#16).ports.errvalO = 0x005#12 ∧ (withWord 0x0010#16).ports.statusO = 1#2 ∧
    (withWord 0x0010#16).ports.errvalO = 0x010#12 := by decide

/-! ### The environment (V13) -/

theorem test_assemble_two_statements :
    assemble [.data 0#16 [0x25#8, 0x00#8, 0x1C#8, 0x0C#8], .endOfFile] =
      .ok [.statement 0#8 ⟨.movwf, .file r5⟩, .statement 1#8 ⟨.movlw, .literal 0x1C#8⟩] := by decide

theorem test_assemble_order_and_config :
    assemble [.data 0x1FFE#16 [0xEB#8, 0x0F#8], .data 4#16 [0x40#8, 0x00#8], .data 0#16 [0x00#8, 0x00#8]] =
      .ok [.config 0x0FEB#16, .statement 2#8 ⟨.clrw, .noOperands⟩, .statement 0#8 ⟨.nop, .noOperands⟩] := by decide

theorem test_assemble_errors :
    assemble [.data 1#16 [0x25#8]] = .error (.unalignedAddress 0 1#16) ∧
    assemble [.data 0x1FFE#16 [0xEB#8]] = .error (.badConfigWordLength 0 1) ∧
    assemble [.data 0x200#16 [0#8]] = .error (.oddByteCount 0 1) ∧
    assemble [.data 0x1FE#16 [0#8, 0#8, 0#8, 0#8]] = .error (.addressOutOfRange 0 0x100) ∧
    assemble [.data 0#16 [0x40#8, 0#8], .endOfFile, .startLinearAddress] = .error (.trailingDataAfterEndOfFile 1) ∧
    assemble [.data 0#16 [0#8, 0#8, 0x10#8, 0#8]] = .error (.decoder (.unknownOpcode 0x010#12) 0) := by decide

/-! ### Witnesses: values that meet the hypotheses of each statement that has some -/

theorem witness_DecodeOfEncodeIsTheInstruction : wellFormed (.bcf 7#3 31#5) = true ∧ wellFormed (.tris 6#3) = true := by decide

theorem witness_EncodeOfDecodeIsTheWord : decodeInstr 0xFFFF#16 = .ok (.xorlw 0xFF#8) := by decide

theorem witness_ReencodingInvertsDecode : decode 0x01E7#16 = .ok ⟨.addwf, .fileAndDestination r7 .file⟩ ∧
    (entryOf .tris).bitPattern.operandShape = operandShapeOf (.tris .CMCON0) := by decide

theorem witness_CompiledPatternsAreWellFormed :
    compileWith [' '] ['1', '0', '1', ' ', 'k', 'k', 'k', 'k', 'k', 'k', 'k', 'k', 'k'] = .ok ⟨0xA00#12, 0xE00#12, .goto⟩ := by
  decide

theorem witness_CompileHasItsClosedForm : 1 ≤ [true, false, true].length ∧
    [true, false, true].length + shapeWidth .goto = 12 ∧
    1 ≤ (List.replicate 12 true).length ∧ (List.replicate 12 true).length + shapeWidth .noOperands = 12 := by decide

theorem witness_CompileAcceptsOnlyDigitsThenShape :
    compileStripped (List.replicate 12 '1') = .ok ⟨0xFFF#12, 0xFFF#12, .noOperands⟩ := by decide

/-- The first clause: a bad character after good ones. -/
theorem witness_CompileReportsTheFirstFailingCheck_character : (∀ x ∈ ['0', 'f'], x ∈ ['0', '1', 'b', 'd', 'f', 'k']) ∧
    'D' ∉ ['0', '1', 'b', 'd', 'f', 'k'] := by simp

/-- The opcode fields and residuals of the other clauses: 0, 1, 12 and 13 digits before the residuals `b` and none. -/
theorem witness_CompileReportsTheFirstFailingCheck_field :
    (∀ x ∈ List.replicate 13 '0', x = '0' ∨ x = '1') ∧ (∀ x ∈ ['b'], x ∈ ['0', '1', 'b', 'd', 'f', 'k']) ∧
    (∀ x ∈ ['b'].head?, x ≠ '0' ∧ x ≠ '1') ∧ (∀ tag, ['b'] ≠ shapeLetters tag) ∧
    ([] : List Char) = shapeLetters .noOperands ∧ ([] : List Char).length = 0 ∧ 12 < (List.replicate 13 '0').length ∧
    1 ≤ ['0'].length ∧ (List.replicate 12 '0').length ≤ 12 ∧ ['0'].length + shapeWidth .noOperands ≠ 12 ∧
    (List.replicate 12 '0').length + shapeWidth .tris ≠ 12 := by
  refine ⟨by simp, by simp, by simp, fun tag => by cases tag <;> decide, ?_⟩
  decide

theorem witness_WhitespaceIsIgnored : ' ' ∈ Config.whitespace ∧ '\r' ∈ Config.whitespace := by decide

theorem witness_WhitespaceSetLeavesTheTable : (' ' ∈ [' '] ∧ ∀ c ∈ ['0', '1', 'b', 'd', 'f', 'k'], c ∉ [' ']) ∧
    (' ' ∈ Config.whitespace ∧ ∀ c ∈ ['0', '1', 'b', 'd', 'f', 'k'], c ∉ Config.whitespace) := by
  simp [Config.whitespace]

theorem witness_OverlapsAreFourPairsWithTris : OpcodeId.nop ≠ .tris ∧ OpcodeId.clrwdt ≠ .tris ∧ OpcodeId.nop ≠ .option := by
  decide

theorem witness_MatchOfOwnMatchValue : OpcodeId.addwf ≠ .tris ∧ OpcodeId.xorlw ≠ .tris := by decide

/-- The shipped order, in which the four come before tris. -/
theorem witness_TableOrderMattersForTrisOnly_before :
    (TABLE.take 31 ++ entryOf .tris :: TABLE.drop 32).Perm TABLE ∧
    (∀ id ∈ [OpcodeId.nop, .option, .sleep, .clrwdt], entryOf id ∈ TABLE.take 31) := by
  refine ⟨List.Perm.of_eq rfl, ?_⟩
  intro id h
  simp only [List.mem_cons, List.not_mem_nil, or_false] at h
  rcases h with rfl | rfl | rfl | rfl <;> simp [TABLE, declarationOrder]

/-- tris moved to the front, so that the four come after it. -/
theorem witness_TableOrderMattersForTrisOnly_after :
    ([] ++ entryOf .tris :: (TABLE.take 31 ++ TABLE.drop 32)).Perm TABLE ∧
    entryOf .nop ∈ TABLE.take 31 ++ TABLE.drop 32 ∧ entryOf .clrwdt ∈ TABLE.take 31 ++ TABLE.drop 32 := by
  refine ⟨?_, ?_, ?_⟩
  · have h : (TABLE.take 31 ++ entryOf .tris :: TABLE.drop 32).Perm TABLE := List.Perm.of_eq rfl
    exact List.perm_middle.symm.trans h
  all_goals simp [TABLE, declarationOrder]

theorem witness_LookupByNameIsExact : ∀ id : OpcodeId, opcodeName id ≠ "ADDWF" := by
  intro id; cases id <;> decide

theorem witness_RegisterCheckRefusesEightToFifteen : (8 ≤ (8#5).toNat ∧ (8#5).toNat ≤ 15) ∧
    (8 ≤ (15#5).toNat ∧ (15#5).toNat ≤ 15) ∧ (7#5).toNat < 8 ∧ 16 ≤ (16#5).toNat := by decide

theorem witness_CodecEncodesWhatItDecoded : (0x3F#12).toNat < 2 ^ shapeWidth .fileAndDestination ∧
    codecDecode .fileAndDestination 0x3F#12 = .ok (.fileAndDestination r31 .file) ∧
    (7#12).toNat < 2 ^ shapeWidth .tris ∧ codecDecode .tris 7#12 = .ok (.tris .CMCON0) := by decide

theorem witness_CodecReadsItsFieldAlone :
    (0xFFF#12).toNat % 2 ^ shapeWidth .file = (0x01F#12).toNat % 2 ^ shapeWidth .file ∧
    codecDecode .file 8#12 = .error (.invalidRegister 8#5) ∧ codecDecode .file 15#12 = .error (.invalidRegister 15#5) ∧
    codecDecode .tris 0#12 = .error (.invalidTrisSelector 0#3) ∧
    codecDecode .tris 5#12 = .error (.invalidTrisSelector 5#3) := by decide

theorem witness_MetadataHasNoInfluence : ∀ op ∈ TABLE,
    ({ op with name := "?", cycles := 7, statusBits := noFlags } : Opcode).id = op.id ∧
    ({ op with name := "?", cycles := 7, statusBits := noFlags } : Opcode).bitPattern = op.bitPattern :=
  fun _ _ => ⟨rfl, rfl⟩

theorem witness_FileAndDestinationWords : (0x01E7#16).extractLsb' 6 6 = 0b000111#6 ∧ r7.number = (0x01E7#16).extractLsb' 0 5 ∧
    (0xF19F#16).extractLsb' 6 6 = 0b000110#6 ∧ r31.number = (0xF19F#16).extractLsb' 0 5 ∧
    (0x01C8#16).extractLsb' 6 6 = 0b000111#6 ∧ 8 ≤ ((0x01C8#16).extractLsb' 0 5).toNat ∧
    ((0x01CF#16).extractLsb' 0 5).toNat ≤ 15 := by decide

theorem witness_FileAndBitNumberWords : (0x0067#16).extractLsb' 5 7 = 0b0000011#7 ∧ r7.number = (0x0067#16).extractLsb' 0 5 ∧
    (0x0028#16).extractLsb' 5 7 = 0b0000001#7 ∧ 8 ≤ ((0x0028#16).extractLsb' 0 5).toNat ∧
    ((0x002F#16).extractLsb' 0 5).toNat ≤ 15 ∧ (0x07F0#16).extractLsb' 8 4 = 0b0111#4 ∧
    r16.number = (0x07F0#16).extractLsb' 0 5 ∧ (0x0408#16).extractLsb' 8 4 = 0b0100#4 ∧
    8 ≤ ((0x0408#16).extractLsb' 0 5).toNat ∧ ((0x040F#16).extractLsb' 0 5).toNat ≤ 15 := by decide

theorem witness_LiteralAndGotoWords : (0x0EFF#16).extractLsb' 8 4 = 0b1110#4 ∧ (0xF900#16).extractLsb' 8 4 = 0b1001#4 ∧
    (0x0A00#16).extractLsb' 9 3 = 0b101#3 ∧ (0x0BFF#16).extractLsb' 9 3 = 0b101#3 := by decide

theorem witness_MiscellaneousRow : (0x0000#16).extractLsb' 3 9 = 0#9 ∧ (0xF007#16).extractLsb' 3 9 = 0#9 ∧
    0x008 ≤ ((0x0008#16).extractLsb' 0 12).toNat ∧ ((0x001F#16).extractLsb' 0 12).toNat ≤ 0x01F ∧
    0x020 ≤ ((0x0020#16).extractLsb' 0 12).toNat ∧ ((0x003F#16).extractLsb' 0 12).toNat ≤ 0x03F ∧
    r0.number = (0x0020#16).extractLsb' 0 5 ∧ r31.number = (0x003F#16).extractLsb' 0 5 ∧
    0x028 ≤ ((0x0028#16).extractLsb' 0 12).toNat ∧ ((0x002F#16).extractLsb' 0 12).toNat ≤ 0x02F := by decide

theorem witness_ClrwIsOneWord : (0x5040#16).extractLsb' 0 12 = 0x040#12 ∧
    0x041 ≤ ((0x0041#16).extractLsb' 0 12).toNat ∧ ((0x005F#16).extractLsb' 0 12).toNat ≤ 0x05F := by decide

theorem witness_InvalidRegisterExactly : decode 0x07EF#16 = .error (.invalidRegister 15#5) := by decide

theorem witness_InvalidTrisSelectorExactly : decode 0x0005#16 = .error (.invalidTrisSelector 5#3) ∧
    codecDecode .tris 5#12 = .error (.invalidTrisSelector 5#3) := by decide

/-- The state after reset, and one whose environment has returned, call the block directly. -/
theorem directCall_withWord (word : Word16) : directCall (withWord word) := fun _ h => by cases h

/-- A call of `assemble` in progress with a word queued at an address. -/
def runningOn (address : Nat) : AssemblerRun := ⟨1, 0, [(address, 0x0040#16)], [], []⟩

theorem witness_StepRunsTheDecodedInstruction_direct : directCall (withWord 0x0C1C#16) ∧
    decodeInstr (withWord 0x0C1C#16).wordI = .ok (.movlw 0x1C#8) ∧ directCall (withWord 0x0008#16) ∧
    decodeInstr (withWord 0x0008#16).wordI = .error (.unknownOpcode 0x008#12) :=
  ⟨directCall_withWord _, by decide, directCall_withWord _, by decide⟩

theorem witness_StepRunsTheDecodedInstruction_queued :
    (State.reset.withAssembler (.running (runningOn 0xFF))).assembler = .running (runningOn 0xFF) ∧
    (runningOn 0xFF).words = (0xFF, 0x0040#16) :: [] ∧ 0xFF ≤ 0xFF ∧ decodeInstr 0x0040#16 = .ok .clrw ∧
    exec .clrw { State.reset.withAssembler (.running (runningOn 0xFF)) with wordI := 0x0040#16 } =
      .next ⟨0x0040#16, some (.ok ⟨.clrw, .noOperands⟩), .running (runningOn 0xFF), 0⟩ :=
  ⟨rfl, rfl, by decide, by decide, rfl⟩

theorem witness_StepReturnsWhatDecodeGives : directCall (withWord 0x0068#16) ∧
    directCall (State.reset.withAssembler (.returned (.ok []))) :=
  ⟨directCall_withWord _, fun _ h => by cases h⟩

/-- A state whose last call returned an error, and the state after reset. -/
theorem witness_ErrorLeavesNoTrace : directCall (State.reset.raises (.invalidRegister 8#5)) ∧ directCall State.reset ∧
    (∃ t, step ((State.reset.raises (.invalidRegister 8#5)).presents 0x0C1C#16) = .next t) ∧
    (∃ t, step (State.reset.presents 0x0C1C#16) = .next t) :=
  ⟨(fun _ h => by cases h), (fun _ h => by cases h), ⟨_, rfl⟩, ⟨_, rfl⟩⟩

theorem witness_PortsOfErrors : decode (withWord 0x0010#16).wordI = .error (.unknownOpcode 0x010#12) ∧
    decode (withWord 0x0068#16).wordI = .error (.invalidRegister 8#5) ∧
    decode (withWord 0x0005#16).wordI = .error (.invalidTrisSelector 5#3) ∧
    (withWord 0x0068#16).ports.statusO ≠ 1#2 := by decide

/-- A run of two steps that do not stop, an assembly among them. -/
theorem witness_OutputsAreFunctionsOfTheWord :
    (∃ t, Host.Core.run Sys2Proof.core 2 (withWord 0x0068#16) = .next t) ∧
    (∃ t, Host.Core.run Sys2Proof.core 2 (State.reset.withRecords [.data 0#16 [0x40#8, 0#8]]) = .next t) :=
  ⟨⟨_, rfl⟩, ⟨_, rfl⟩⟩

theorem witness_GotoAndTrisMeanings : (0#3) ≠ 6#3 ∧ (0#3) ≠ 7#3 ∧ (5#3) ≠ 6#3 ∧ (5#3) ≠ 7#3 := by decide

theorem witness_ReservedRegisterMeanings : (8 ≤ (8#5).toNat ∧ (8#5).toNat ≤ 15) ∧ (8 ≤ (15#5).toNat ∧ (15#5).toNat ≤ 15) := by
  decide

theorem witness_WordsAreLittleEndianPairs : [0x1C#8, 0x0C#8].length % 2 = 0 ∧ [0x1C#8, 0x0C#8][2 * 0]? = some 0x1C#8 ∧
    [0x1C#8, 0x0C#8][2 * 0 + 1]? = some 0x0C#8 := by decide

/-- Per clause, at its boundary: an odd address, a wrong configuration length, an odd count, a first word at 0x100 and at 0x7FFF,
a nonzero extension, a record after the end. -/
theorem witness_StructuralErrorsOfRecords : (1#16).toNat % 2 = 1 ∧ [0xEB#8].length ≠ 2 ∧ [0xEB#8, 0x0F#8, 0#8].length ≠ 2 ∧
    ((0x1FFC#16).toNat % 2 = 0 ∧ 0x1FFC#16 ≠ 0x1FFE#16 ∧ [0#8].length % 2 = 1) ∧
    ((0x200#16).toNat % 2 = 0 ∧ 0x200#16 ≠ 0x1FFE#16 ∧ [0#8, 0#8].length % 2 = 0 ∧ [0#8, 0#8] ≠ [] ∧
      0xFF < (0x200#16).toNat / 2) ∧
    ((0xFFFE#16).toNat % 2 = 0 ∧ 0xFFFE#16 ≠ 0x1FFE#16 ∧ 0xFF < (0xFFFE#16).toNat / 2) ∧
    (1#16) ≠ 0#16 ∧ [InputRecord.endOfFile] ≠ [] := by decide

theorem witness_StatementsAreDecodedWords : (0x01FE#16) ≠ 0x1FFE#16 ∧
    assembleFrom 3 [.data 0x01FE#16 [0x40#8, 0#8]] = .ok [.statement 0xFF#8 ⟨.clrw, .noOperands⟩] ∧
    [0x40#8, 0#8][2 * 0]? = some 0x40#8 ∧ [0x40#8, 0#8][2 * 0 + 1]? = some 0#8 := by decide

/-- Two words of a record that ends at the last program address, and the instructions they decode to. -/
theorem witness_StatementsAreDecodedWords_accepted : (0x01FC#16).toNat % 2 = 0 ∧ (0x01FC#16) ≠ 0x1FFE#16 ∧
    [0x40#8, 0#8, 0xFF#8, 0x0F#8].length = 2 * [(⟨.clrw, .noOperands⟩ : Instruction), ⟨.xorlw, .literal 0xFF#8⟩].length ∧
    (0x01FC#16).toNat / 2 + 1 = 0xFF ∧ decode ((0#8).setWidth 16 <<< 8 ||| (0x40#8).setWidth 16) = .ok ⟨.clrw, .noOperands⟩ ∧
    decode ((0x0F#8).setWidth 16 <<< 8 ||| (0xFF#8).setWidth 16) = .ok ⟨.xorlw, .literal 0xFF#8⟩ := by decide

/-- The words before the first bad one: here one word, clrw. -/
theorem witness_FirstBadWordEndsTheRecord_before : ∀ (j : Nat) (l h : Byte), j < 1 →
    [0x40#8, 0#8, 0x10#8, 0#8][2 * j]? = some l → [0x40#8, 0#8, 0x10#8, 0#8][2 * j + 1]? = some h →
    ∃ i, decode ((h.setWidth 16 <<< 8) ||| l.setWidth 16) = .ok i := by
  intro j l h hj hl hh
  obtain rfl : j = 0 := by omega
  cases hl
  cases hh
  exact ⟨⟨.clrw, .noOperands⟩, by decide⟩

/-- That record at byte address 0x1FC, where its bad second word is at 0xFF, and at 0x1FE, where it is at 0x100. -/
theorem witness_FirstBadWordEndsTheRecord : [0x40#8, 0#8, 0x10#8, 0#8].length % 2 = 0 ∧
    [0x40#8, 0#8, 0x10#8, 0#8][2 * 1]? = some 0x10#8 ∧ [0x40#8, 0#8, 0x10#8, 0#8][2 * 1 + 1]? = some 0#8 ∧
    ((0x1FC#16).toNat % 2 = 0 ∧ (0x1FC#16) ≠ 0x1FFE#16 ∧ (0x1FC#16).toNat / 2 + 1 ≤ 0xFF ∧
      decode ((0#8).setWidth 16 <<< 8 ||| (0x10#8).setWidth 16) = .error (.unknownOpcode 0x010#12)) ∧
    ((0x1FE#16).toNat % 2 = 0 ∧ (0x1FE#16) ≠ 0x1FFE#16 ∧ (0x1FE#16).toNat / 2 ≤ 0xFF ∧
      (0x1FE#16).toNat / 2 + 1 = 0x100) := by decide

theorem witness_AssemblyFollowsRecordOrder :
    (∀ x ∈ [InputRecord.data 0#16 [0#8, 0#8]], x ≠ .endOfFile) ∧
    assembleFrom 0 [.data 0#16 [0#8, 0#8]] = .ok [.statement 0#8 ⟨.nop, .noOperands⟩] ∧
    (∀ x ∈ [InputRecord.data 0#16 [0x68#8, 0#8]], x ≠ .endOfFile) ∧
    assembleFrom 0 [.data 0#16 [0x68#8, 0#8]] = .error (.decoder (.invalidRegister 8#5) 0) := by decide

theorem witness_AssemblyErrorsCarryARecordIndex :
    assemble [.data 0#16 [0x40#8, 0#8], .endOfFile, .endOfFile] = .error (.trailingDataAfterEndOfFile 1) ∧
    assemble [.extendedLinearAddress 1#16] = .error (.unsupportedAddressExtension 0 1#16) ∧
    assemble [.endOfFile, .data 1#16 []] = .error (.trailingDataAfterEndOfFile 0) ∧
    assemble [.extendedSegmentAddress] = .error (.unsupportedRecordKind 0) ∧
    assemble [.data 0#16 [], .data 0#16 [0#8]] = .error (.oddByteCount 1 1) := by decide

theorem witness_AssemblerRunReturnsAssemble :
    [InputRecord.data 0#16 [0x40#8, 0#8, 0#8, 0#8], .endOfFile].length +
      wordsIn [.data 0#16 [0x40#8, 0#8, 0#8, 0#8], .endOfFile] + 1 ≤ 5 := by decide

/-- A direct call on a reserved register, and a queued word, from good states. -/
theorem witness_StepKeepsGood : (withWord 0x0068#16).good = true ∧ (∃ t, step (withWord 0x0068#16) = .next t) ∧
    (State.reset.withAssembler (.running (runningOn 0xFF))).good = true ∧
    (∃ t, step (State.reset.withAssembler (.running (runningOn 0xFF))) = .next t) :=
  ⟨by decide, ⟨_, rfl⟩, by decide, ⟨_, rfl⟩⟩

/-- No word queued; a word queued at address 0x100; a word queued at address 0xFF. -/
theorem witness_OnlyTheBlockReplies :
    assemblerOf (step (State.reset.withRecords [.endOfFile])) = some (.running ⟨1, 0, [], [], []⟩) ∧
    assemblerOf (step (State.reset.withAssembler (.running (runningOn 0x100)))) =
      some (.returned (.error (.addressOutOfRange 0 0x100))) ∧
    replyOf (step (State.reset.withAssembler (.running (runningOn 0xFF)))) = some (.ok ⟨.clrw, .noOperands⟩) := by decide

end Sys2Proof.Tests
end

section
/-! The invariant `State.good` is kept by every step (O53). A call of the block returns `decode` of its word, and every
value that `decode` returns is well formed; the environment adds to its program only such values. -/

namespace Sys2Proof.Machine

/-! ### What a call of the block returns -/

/-- A call of the block returns `decode` of the word on `word_i`: the step's way over the instruction's term and its
meaning reaches the value of rule R133. -/
theorem stepBlock_eq_returns_decode (s : State) : stepBlock s = .next (s.returns (decode s.wordI)) := by
  rw [decode_eq_matchId]
  simp only [stepBlock, stepBlockWith, decodeInstrIn, matchIn_TABLE]
  cases matchId (significantBits s.wordI) with
  | none => rfl
  | some id =>
    obtain ⟨e, hx, ha⟩ | ⟨o, hx, ha⟩ := s.answers_cases id (codecDecode (opcodeBitPattern id).operandShape
      (operandBits (opcodeBitPattern id) (significantBits s.wordI)))
    all_goals exact (exec_instrOf id _ s).trans (ha.trans (by simp only [hx]; rfl))

/-- What `decode` returns is an instruction with its opcode's shape, or an error with a payload of its kind (rules R24,
R198 to R200). -/
theorem replyWf_decode (word : Word16) : replyWf (some (decode word)) = true := by
  rw [decode_eq_matchId]
  cases hm : matchId (significantBits word) with
  | none => simp [replyWf, matchOpcode_eq_map, hm]
  | some id =>
    obtain ⟨x, hx, hs⟩ | ⟨hr, hx⟩ | ⟨-, hsel, hx⟩ := codecDecode_cases (opcodeBitPattern id).operandShape
      (operandBits (opcodeBitPattern id) (significantBits word))
    · simp [hx, replyWf, instructionWf, entryOf, hs]
    · simp [hx, replyWf, hr]
    · simp [hx, replyWf, hsel]

/-! ### Programs -/

@[simp] theorem programWf_nil : programWf [] = true := rfl

@[simp] theorem programWf_config (word : Word16) : programWf [.config word] = true := rfl

@[simp] theorem programWf_statement (address : BitVec 8) (i : Instruction) :
    programWf [.statement address i] = instructionWf i := Bool.and_true _

@[simp] theorem programWf_append (p q : Program) : programWf (p ++ q) = (programWf p && programWf q) :=
  List.all_append

/-- A record emits nothing when it is begun, or one configuration word, which holds no instruction (rules R181, R182). -/
theorem programWf_of_openRecord {index : Nat} {more : Bool} {record : InputRecord} {emitted : Program}
    {words : List (Nat × Word16)} (h : openRecord index more record = .ok (emitted, words)) :
    programWf emitted = true := by
  cases record with
  | data address bytes =>
    change openData index address bytes = _ at h
    obtain ⟨-, ho⟩ | ⟨-, -, ho⟩ | ⟨low, high, -, -, ho⟩ | ⟨-, ho⟩ | ⟨-, -, -, ho⟩ := openData_cases index address bytes
    all_goals cases ho.symm.trans h
    · exact programWf_config _
    · rfl
  | extendedLinearAddress upper =>
    simp only [openRecord] at h
    split at h <;> cases h
    rfl
  | endOfFile =>
    simp only [openRecord] at h
    split at h <;> cases h
    rfl
  | startSegmentAddress => cases h
  | extendedSegmentAddress => cases h
  | startLinearAddress => cases h

/-! ### The invariant, operation by operation -/

theorem State.good_iff (s : State) : s.good = true ↔ replyWf s.reply = true ∧ assemblerWf s.assembler = true :=
  Bool.and_eq_true_iff

theorem runWf_iff (run : AssemblerRun) :
    runWf run = true ↔ programWf run.out = true ∧ (run.words = [] ∨ run.current + 1 = run.next) := by
  simp [runWf]

/-- A call of the block keeps the invariant: the environment is left as it is. -/
theorem good_returns_decode {s : State} (word : Word16) (hs : s.good = true) : (s.returns (decode word)).good = true := by
  rw [State.good_iff] at hs ⊢
  exact ⟨replyWf_decode word, hs.2⟩

theorem good_withAssembler {s : State} {a : Assembler} (hs : s.good = true) (ha : assemblerWf a = true) :
    (s.withAssembler a).good = true := by
  rw [State.good_iff] at hs ⊢
  exact ⟨hs.1, ha⟩

/-- Beginning a record keeps the invariant: the record becomes the one begun last, and its words are those queued. -/
theorem good_beginRecord {run : AssemblerRun} {s : State} (hs : s.good = true) (hout : programWf run.out = true) :
    (beginRecord run s).good = true := by
  unfold beginRecord
  split
  · exact good_withAssembler hs hout
  · split
    · exact good_withAssembler hs rfl
    · rename_i ho
      refine good_withAssembler hs ((runWf_iff _).2 ⟨?_, .inr rfl⟩)
      rw [programWf_append, hout, programWf_of_openRecord ho]
      rfl

/-- Using a returned value keeps the invariant: the instruction of the emitted statement is the one just returned. -/
theorem good_collectStatement {run : AssemblerRun} (address : Nat) (later : List (Nat × Word16)) {s : State}
    {reply : Except DecodeError Instruction} (hr : s.reply = some reply) (hs : s.good = true)
    (hout : programWf run.out = true) (hcur : run.current + 1 = run.next) :
    (collectStatement run address later s).good = true := by
  obtain ⟨e, -, hc⟩ | ⟨i, rfl, hc⟩ := collectStatement_cases run address later s reply hr
  · rw [hc]
    exact good_withAssembler hs rfl
  · have hi : instructionWf i = true := by
      have hreply := ((State.good_iff s).1 hs).1
      rwa [hr] at hreply
    rw [hc]
    exact good_withAssembler hs ((runWf_iff _).2 ⟨by simp [hout, hi], .inr hcur⟩)

/-- Every action of the environment keeps the invariant. -/
theorem good_stepAssembler {run : AssemblerRun} {s t : State} (ha : s.assembler = .running run) (hs : s.good = true)
    (h : stepAssembler run s = .next t) : t.good = true := by
  have hrun : runWf run = true := by
    have hasm := ((State.good_iff s).1 hs).2
    rwa [ha] at hasm
  obtain ⟨hout, hqueue⟩ := (runWf_iff run).1 hrun
  obtain ⟨-, hn⟩ | ⟨_, _, _, -, -, hn⟩ | ⟨address, word, later, reply, hw, -, hb, hn⟩ := stepAssembler_cases run s
  all_goals cases hn.symm.trans h
  case inl => exact good_beginRecord hs hout
  case inr.inl => exact good_withAssembler hs rfl
  case inr.inr =>
    have hcur : run.current + 1 = run.next := hqueue.resolve_left (by simp [hw])
    have hcall : ((s.presents word).returns reply).good = true := by
      cases hb.symm.trans (stepBlock_eq_returns_decode _)
      exact good_returns_decode _ hs
    exact good_collectStatement address later rfl hcall hout hcur

/-- Every call of the block keeps the invariant. -/
theorem good_stepBlock {s t : State} (hs : s.good = true) (h : stepBlock s = .next t) : t.good = true := by
  cases (stepBlock_eq_returns_decode s).symm.trans h
  exact good_returns_decode _ hs

/-- Settles O53: a step is an action of the environment or a call of the block, and each keeps the invariant. -/
theorem stepKeepsGood : Obligations.StepKeepsGood := by
  intro s t hs h
  unfold step at h
  split at h
  · exact good_stepAssembler ‹_› hs h
  · exact good_stepBlock hs h
  · exact good_stepBlock hs h

end Sys2Proof.Machine
end

section
/-! The words of a data record are its byte pairs, low byte first, at consecutive addresses (O46, rule R33). -/

namespace Sys2Proof.Machine

/-- Setting two bytes side by side is the combination `highByte << 8 | lowByte` that rule R33 states. -/
theorem wordOfBytes_eq_shiftLeft_or (low high : Byte) :
    wordOfBytes low high = (high.setWidth 16 <<< 8) ||| low.setWidth 16 :=
  (BitVec.setWidth_eq (high ++ low)).symm.trans BitVec.setWidth_append_eq_shiftLeft_setWidth_or

/-- Pair `j` of the bytes is word `j` of the record, `j` addresses past its first (rules R33, R36). -/
theorem addressedWords_getElem? {low high : Byte} (start : Nat) (bytes : List Byte) (j : Nat)
    (hlow : bytes[2 * j]? = some low) (hhigh : bytes[2 * j + 1]? = some high) :
    (addressedWords start bytes)[j]? = some (start + j, wordOfBytes low high) := by
  induction bytes using List.twoStepInduction generalizing start j with
  | nil => simp at hlow
  | singleton x => simp at hhigh
  | cons_cons x y rest ih _ =>
    cases j with
    | zero =>
      cases hlow
      cases hhigh
      rfl
    | succ k =>
      have hk : (addressedWords (start + 1) rest)[k]? = some (start + 1 + k, wordOfBytes low high) :=
        ih (start + 1) k hlow hhigh
      rw [addressedWords, List.getElem?_cons_succ, hk, Nat.add_right_comm, Nat.add_assoc]

/-- Settles O46: the number of words is `addressedWords_length`, each word is its pair's, and a pair combines as rule R33
says. -/
theorem wordsAreLittleEndianPairs : Obligations.WordsAreLittleEndianPairs := by
  intro start bytes _
  refine ⟨addressedWords_length start bytes, fun j low high hlow hhigh => ?_⟩
  exact ⟨wordOfBytes low high, addressedWords_getElem? start bytes j hlow hhigh, wordOfBytes_eq_shiftLeft_or low high⟩

end Sys2Proof.Machine
end

section
/-! Which entry a word matches: the accepting entry of the lowest index. Two entries other than tris never accept the
same word, and each entry that shares a word with tris stands before it (rules R95, R96). -/

namespace Sys2Proof.Machine

/-! ### The first accepting entry -/

theorem opcodeIndex_injective {a b : OpcodeId} (h : opcodeIndex a = opcodeIndex b) : a = b :=
  (List.idxOf_inj (mem_declarationOrder a)).1 h

theorem accepts_of_matchId {w : Word12} {id : OpcodeId} (h : matchId w = some id) :
    accepts (opcodeBitPattern id) w = true :=
  List.find?_some (p := fun id => accepts (opcodeBitPattern id) w) h

/-- Where the matcher answers, no accepting entry stands before its answer. -/
theorem opcodeIndex_le_of_matchId {w : Word12} {id a : OpcodeId} (h : matchId w = some id)
    (ha : accepts (opcodeBitPattern a) w = true) : opcodeIndex id ≤ opcodeIndex a := by
  obtain ⟨-, before, after, hsplit, hbefore⟩ := List.find?_eq_some_iff_append.1 h
  have hmem : ∀ b, accepts (opcodeBitPattern b) w = true → b ∉ before := fun b hb hin => by
    simpa [hb] using hbefore b hin
  simp only [opcodeIndex, hsplit, List.idxOf_append_of_notMem (hmem _ ha),
    List.idxOf_append_of_notMem (hmem _ (accepts_of_matchId h)), List.idxOf_cons_self]
  omega

theorem matchId_eq_none_iff (w : Word12) : matchId w = none ↔ ∀ id, accepts (opcodeBitPattern id) w = false := by
  simp [matchId, mem_declarationOrder]

/-- The matcher's answer is the accepting entry with the lowest index (rule R95). -/
theorem matchId_eq_some_iff (w : Word12) (id : OpcodeId) : matchId w = some id ↔
    accepts (opcodeBitPattern id) w = true ∧
      ∀ a, accepts (opcodeBitPattern a) w = true → opcodeIndex id ≤ opcodeIndex a := by
  constructor
  · exact fun h => ⟨accepts_of_matchId h, fun a => opcodeIndex_le_of_matchId h⟩
  · rintro ⟨hid, hfirst⟩
    cases hm : matchId w with
    | none => simp [(matchId_eq_none_iff w).1 hm id] at hid
    | some b =>
      have hle : opcodeIndex id ≤ opcodeIndex b := hfirst b (accepts_of_matchId hm)
      rw [opcodeIndex_injective (Nat.le_antisymm (opcodeIndex_le_of_matchId hm hid) hle)]

/-! ### Entries that accept a common word -/

/-- An entry at least `k` bits wide accepts all or none of an aligned block of `2 ^ k` words, by the block's number. -/
theorem accepts_iff_of_le (id : OpcodeId) (w : Word12) {k : Nat} (hk : k ≤ entryWidth id) :
    accepts (opcodeBitPattern id) w = true ↔ w.toNat / 2 ^ k / 2 ^ (entryWidth id - k) = entryBlock id := by
  rw [accepts_iff, Nat.div_div_eq_div_mul, ← pow_add, Nat.add_sub_cancel' hk]

/-- Where one entry's block lies in a block of another, the other is tris and the table has it later (rule R96). -/
theorem nested_blocks : ∀ a ∈ declarationOrder, ∀ b ∈ declarationOrder, entryWidth a ≤ entryWidth b →
    entryBlock a / 2 ^ (entryWidth b - entryWidth a) = entryBlock b →
    a = b ∨ b = .tris ∧ opcodeIndex a < opcodeIndex b := by
  decide +kernel

theorem eq_or_tris_of_accepts {w : Word12} {a b : OpcodeId} (ha : accepts (opcodeBitPattern a) w = true)
    (hb : accepts (opcodeBitPattern b) w = true) (hab : entryWidth a ≤ entryWidth b) :
    a = b ∨ b = .tris ∧ opcodeIndex a < opcodeIndex b := by
  rw [accepts_iff_of_le b w hab, (accepts_iff a w).1 ha] at hb
  exact nested_blocks a (mem_declarationOrder a) b (mem_declarationOrder b) hab hb

/-- An entry other than tris is the match of every word that it accepts. -/
theorem matchId_of_accepts {w : Word12} {id : OpcodeId} (h : accepts (opcodeBitPattern id) w = true) (hid : id ≠ .tris) :
    matchId w = some id := by
  refine (matchId_eq_some_iff w id).2 ⟨h, fun a ha => ?_⟩
  obtain hle | hle := Nat.le_total (entryWidth id) (entryWidth a)
  · obtain rfl | ⟨-, hlt⟩ := eq_or_tris_of_accepts h ha hle
    · exact le_rfl
    · exact hlt.le
  · obtain rfl | ⟨rfl, -⟩ := eq_or_tris_of_accepts ha h hle
    · exact le_rfl
    · exact absurd rfl hid

end Sys2Proof.Machine
end

section
/-! Decoding to a term and encoding invert each other (O1, O2). -/

namespace Sys2Proof.Machine

/-- What `decodeInstr` gives, by the identity that matches. -/
theorem decodeInstr_eq_matchId (word : Word16) : decodeInstr word =
    ((matchId (significantBits word)).map fun id =>
      Except.ok (instrOf id (operandBits (opcodeBitPattern id) (significantBits word)))).getD
      (.error (.unknownOpcode (significantBits word))) := by
  unfold decodeInstr decodeInstrIn
  rw [matchIn_TABLE]
  cases matchId (significantBits word) <;> rfl

theorem decodeInstr_eq_ok_iff (word : Word16) (i : Instr) : decodeInstr word = .ok i ↔
    ∃ id, matchId (significantBits word) = some id ∧
      instrOf id (operandBits (opcodeBitPattern id) (significantBits word)) = i := by
  rw [decodeInstr_eq_matchId]
  cases matchId (significantBits word) <;> simp

@[simp] theorem significantBits_encodeWord (i : Instr) : significantBits (encodeWord i) = encode i := by
  apply BitVec.eq_of_toNat_eq
  have := (encode i).isLt
  simp only [significantBits, encodeWord, BitVec.extractLsb'_toNat, BitVec.toNat_setWidth, Nat.shiftRight_zero]
  omega

/-! ### From a term to its word and back -/

/-- The family OwnRow as one statement over the terms. -/
theorem ownRow (i : Instr) : Laws.OwnRow.Statement i :=
  match i with
  | .addwf d f => Laws.OwnRow.addwf d f
  | .andwf d f => Laws.OwnRow.andwf d f
  | .clrf f => Laws.OwnRow.clrf f
  | .clrw => Laws.OwnRow.clrw
  | .comf d f => Laws.OwnRow.comf d f
  | .decf d f => Laws.OwnRow.decf d f
  | .decfsz d f => Laws.OwnRow.decfsz d f
  | .incf d f => Laws.OwnRow.incf d f
  | .incfsz d f => Laws.OwnRow.incfsz d f
  | .iorwf d f => Laws.OwnRow.iorwf d f
  | .movf d f => Laws.OwnRow.movf d f
  | .movwf f => Laws.OwnRow.movwf f
  | .nop => Laws.OwnRow.nop
  | .rlf d f => Laws.OwnRow.rlf d f
  | .rrf d f => Laws.OwnRow.rrf d f
  | .subwf d f => Laws.OwnRow.subwf d f
  | .swapf d f => Laws.OwnRow.swapf d f
  | .xorwf d f => Laws.OwnRow.xorwf d f
  | .bcf b f => Laws.OwnRow.bcf b f
  | .bsf b f => Laws.OwnRow.bsf b f
  | .btfsc b f => Laws.OwnRow.btfsc b f
  | .btfss b f => Laws.OwnRow.btfss b f
  | .andlw k => Laws.OwnRow.andlw k
  | .call k => Laws.OwnRow.call k
  | .clrwdt => Laws.OwnRow.clrwdt
  | .goto k => Laws.OwnRow.goto k
  | .iorlw k => Laws.OwnRow.iorlw k
  | .movlw k => Laws.OwnRow.movlw k
  | .option => Laws.OwnRow.option
  | .retlw k => Laws.OwnRow.retlw k
  | .sleep => Laws.OwnRow.sleep
  | .tris f => Laws.OwnRow.tris f
  | .xorlw k => Laws.OwnRow.xorlw k

/-- The two legal selectors are those that no other entry takes: tris keeps their words (rule R97). -/
theorem matchId_encode_tris {f : BitVec 3} (h : selectorLegal f = true) : matchId (encode (.tris f)) = some .tris := by
  obtain rfl | rfl : f = 6#3 ∨ f = 7#3 := by simpa [selectorLegal] using h
  · decide
  · decide

/-- A well-formed instruction's encoding matches its own row. -/
theorem matchId_encode {i : Instr} (h : wellFormed i = true) : matchId (encode i) = some (instrId i) := by
  by_cases ht : instrId i = .tris
  · obtain ⟨f, rfl⟩ : ∃ f, i = .tris f := by cases i <;> simp [instrId] at ht ⊢
    exact matchId_encode_tris h
  · exact matchId_of_accepts (ownRow i).1 ht

/-- Settles O1: the encoding matches the instruction's own row, whose operand bits give the instruction back. -/
theorem decodeOfEncodeIsTheInstruction : Obligations.DecodeOfEncodeIsTheInstruction := by
  intro i h
  refine (decodeInstr_eq_ok_iff _ _).2 ⟨instrId i, ?_, ?_⟩
  · rw [significantBits_encodeWord, matchId_encode h]
  · rw [significantBits_encodeWord, (ownRow i).2]

/-! ### From a word to its term and back -/

/-- Setting bits side by side is place value. -/
theorem toNat_append_eq_mul_add {m n : Nat} (x : BitVec m) (y : BitVec n) :
    (x ++ y).toNat = x.toNat * 2 ^ n + y.toNat := by
  rw [BitVec.toNat_append, ← Nat.shiftLeft_add_eq_or_of_lt y.isLt, Nat.shiftLeft_eq]

theorem operandBits_toNat (id : OpcodeId) (w : Word12) :
    (operandBits (opcodeBitPattern id) w).toNat = w.toNat % 2 ^ entryWidth id := by
  have hmask : (~~~(opcodeBitPattern id).mask).toNat = 2 ^ entryWidth id - 1 := by cases id <;> rfl
  rw [operandBits, BitVec.toNat_and, hmask, Nat.and_two_pow_sub_one_eq_mod]

section Fields
variable (ob : Word12)

theorem registerField_toNat : (registerField ob).toNat = ob.toNat % 2 ^ 5 := BitVec.extractLsb'_toNat 0 5 ob

theorem destinationField_toNat : (destinationField ob).toNat = ob.toNat / 2 ^ 5 % 2 := by
  rw [destinationField, BitVec.extractLsb'_toNat, Nat.shiftRight_eq_div_pow]

theorem bitIndexField_toNat : (bitIndexField ob).toNat = ob.toNat / 2 ^ 5 % 2 ^ 3 := by
  rw [bitIndexField, BitVec.extractLsb'_toNat, Nat.shiftRight_eq_div_pow]

theorem literalField_toNat : (literalField ob).toNat = ob.toNat % 2 ^ 8 := BitVec.extractLsb'_toNat 0 8 ob

theorem addressField_toNat : (addressField ob).toNat = ob.toNat % 2 ^ 9 := BitVec.extractLsb'_toNat 0 9 ob

theorem selectorField_toNat : (selectorField ob).toNat = ob.toNat % 2 ^ 3 := BitVec.extractLsb'_toNat 0 3 ob

/-! The number of a word in each format with operand fields (rules R48 to R54). -/

theorem toNat_fileFormat (c : BitVec 7) : (c ++ registerField ob).toNat = c.toNat * 2 ^ 5 + ob.toNat % 2 ^ 5 := by
  rw [toNat_append_eq_mul_add, registerField_toNat]

theorem toNat_fileAndDestinationFormat (c : BitVec 6) :
    (c ++ destinationField ob ++ registerField ob).toNat = c.toNat * 2 ^ 6 + ob.toNat % 2 ^ 6 := by
  rw [toNat_append_eq_mul_add, toNat_append_eq_mul_add, registerField_toNat, destinationField_toNat]
  omega

theorem toNat_fileAndBitNumberFormat (c : BitVec 4) :
    (c ++ bitIndexField ob ++ registerField ob).toNat = c.toNat * 2 ^ 8 + ob.toNat % 2 ^ 8 := by
  rw [toNat_append_eq_mul_add, toNat_append_eq_mul_add, registerField_toNat, bitIndexField_toNat]
  omega

theorem toNat_literalFormat (c : BitVec 4) : (c ++ literalField ob).toNat = c.toNat * 2 ^ 8 + ob.toNat % 2 ^ 8 := by
  rw [toNat_append_eq_mul_add, literalField_toNat]

theorem toNat_gotoFormat (c : BitVec 3) : (c ++ addressField ob).toNat = c.toNat * 2 ^ 9 + ob.toNat % 2 ^ 9 := by
  rw [toNat_append_eq_mul_add, addressField_toNat]

theorem toNat_trisFormat (c : BitVec 9) : (c ++ selectorField ob).toNat = c.toNat * 2 ^ 3 + ob.toNat % 2 ^ 3 := by
  rw [toNat_append_eq_mul_add, selectorField_toNat]

end Fields

/-- The encoding of the term of an entry and operand bits is the word of the entry's block at the place that the operand
bits give. -/
theorem encode_instrOf_toNat (id : OpcodeId) (ob : Word12) :
    (encode (instrOf id ob)).toNat = entryBlock id * 2 ^ entryWidth id + ob.toNat % 2 ^ entryWidth id := by
  cases id
  case nop | clrw | clrwdt | option | sleep => exact congrArg (_ + ·) (Nat.mod_one ob.toNat).symm
  case clrf | movwf => exact toNat_fileFormat ob _
  case bcf | bsf | btfsc | btfss => exact toNat_fileAndBitNumberFormat ob _
  case andlw | call | iorlw | movlw | retlw | xorlw => exact toNat_literalFormat ob _
  case goto => exact toNat_gotoFormat ob _
  case tris => exact toNat_trisFormat ob _
  all_goals exact toNat_fileAndDestinationFormat ob _

/-- The term made from a word that an entry accepts encodes to that word. -/
theorem encode_instrOf_of_accepts {id : OpcodeId} {w : Word12} (h : accepts (opcodeBitPattern id) w = true) :
    encode (instrOf id (operandBits (opcodeBitPattern id) w)) = w := by
  apply BitVec.eq_of_toNat_eq
  rw [encode_instrOf_toNat, operandBits_toNat, Nat.mod_mod, ← (accepts_iff id w).1 h, Nat.div_add_mod']

/-- Settles O2: the matched entry accepts the word, and the entry's block and the operand bits are all of the word. -/
theorem encodeOfDecodeIsTheWord : Obligations.EncodeOfDecodeIsTheWord := by
  intro word i h
  obtain ⟨id, hid, rfl⟩ := (decodeInstr_eq_ok_iff word i).1 h
  exact encode_instrOf_of_accepts (accepts_of_matchId hid)

end Sys2Proof.Machine
end

section
/-! Which words have an entry (O15). Outside two rows of 32 words every row lies in the block of one entry, and where the
words of each shape's entries lie keeps them out of the two ranges. -/

namespace Sys2Proof.Machine

/-- The two ranges of 12-bit values that no entry accepts (rule R62). -/
abbrev inGap (n : Nat) : Prop := (0x008 ≤ n ∧ n ≤ 0x01F) ∨ (0x041 ≤ n ∧ n ≤ 0x05F)

/-- Where the words of a shape's entries lie (rules R56 to R60). -/
def shapeArea : OperandShape → Nat → Prop
  | .noOperands, n => n = 0x000 ∨ n = 0x002 ∨ n = 0x003 ∨ n = 0x004 ∨ n = 0x040
  | .tris, n => n < 0x008
  | .file, n => (0x020 ≤ n ∧ n < 0x040) ∨ (0x060 ≤ n ∧ n < 0x080)
  | .fileAndDestination, n => 0x080 ≤ n ∧ n < 0x400
  | .fileAndBitNumber, n => 0x400 ≤ n ∧ n < 0x800
  | .literal, n => 0x800 ≤ n
  | .goto, n => 0x800 ≤ n

theorem shapeArea_of_accepts {id : OpcodeId} {w : Word12} (h : accepts (opcodeBitPattern id) w = true) :
    shapeArea (opcodeBitPattern id).operandShape w.toNat := by
  rw [accepts_iff] at h
  cases id
  all_goals
    simp only [entryBlock, entryWidth, opcodeBitPattern, shapeWidth, BitVec.toNat_ofNat, shapeArea] at h ⊢
    omega

theorem not_inGap_of_shapeArea {tag : OperandShape} {n : Nat} (h : shapeArea tag n) : ¬ inGap n := by
  cases tag
  all_goals
    simp only [shapeArea] at h
    omega

/-- Every row of 32 words but rows 0 and 2 lies in the block of one entry. -/
theorem exists_entry_of_row : ∀ q < 128, q ≠ 0 → q ≠ 2 → ∃ id ∈ declarationOrder,
    5 ≤ entryWidth id ∧ q / 2 ^ (entryWidth id - 5) = entryBlock id := by
  decide +kernel

theorem exists_accepts_of_not_inGap {w : Word12} (h : ¬ inGap w.toNat) :
    ∃ id, accepts (opcodeBitPattern id) w = true := by
  by_cases h0 : w.toNat / 32 = 0
  · exact ⟨.tris, (accepts_iff .tris w).2 (show w.toNat / 2 ^ 3 = 0 by omega)⟩
  · by_cases h2 : w.toNat / 32 = 2
    · exact ⟨.clrw, (accepts_iff .clrw w).2 (show w.toNat / 2 ^ 0 = 0x040 by omega)⟩
    · obtain ⟨id, -, hk, hq⟩ := exists_entry_of_row (w.toNat / 32) (by omega) h0 h2
      exact ⟨id, (accepts_iff_of_le id w hk).2 hq⟩

theorem matchId_eq_none_iff_inGap (w : Word12) : matchId w = none ↔ inGap w.toNat := by
  constructor
  · intro h
    by_contra hgap
    obtain ⟨id, hid⟩ := exists_accepts_of_not_inGap hgap
    simp [(matchId_eq_none_iff w).1 h id] at hid
  · intro h
    cases hm : matchId w with
    | none => rfl
    | some id => exact absurd h (not_inGap_of_shapeArea (shapeArea_of_accepts (accepts_of_matchId hm)))

theorem decode_eq_unknownOpcode_iff (word : Word16) (v : Word12) : decode word = .error (.unknownOpcode v) ↔
    v = significantBits word ∧ matchId (significantBits word) = none := by
  rw [decode_eq_matchId]
  cases matchId (significantBits word) with
  | none => simp [eq_comm]
  | some id =>
    obtain ⟨x, hx, -⟩ | ⟨-, hx⟩ | ⟨-, -, hx⟩ := codecDecode_cases (opcodeBitPattern id).operandShape
      (operandBits (opcodeBitPattern id) (significantBits word))
    all_goals simp [hx]

/-- Settles O15: the words without an entry are those of the two ranges, and `decode` fails with UnknownOpcode on a word
without an entry only. -/
theorem unmatchedWordsAreTwoRanges : Obligations.UnmatchedWordsAreTwoRanges := by
  refine ⟨fun w => ?_, fun word v => ?_⟩
  · rw [matchOpcode_eq_map, Option.map_eq_none_iff]
    exact matchId_eq_none_iff_inGap w
  · rw [decode_eq_unknownOpcode_iff, matchId_eq_none_iff_inGap]
    exact and_congr_right fun hv => by rw [hv]

end Sys2Proof.Machine
end

section
/-! The metadata of entries (O25) and the masks of the formats (O4). -/

namespace Sys2Proof.Machine

/-- A change that keeps the bit patterns is carried through the matcher. -/
theorem matchIn_map {table : List Opcode} {change : Opcode → Opcode}
    (hpattern : ∀ op ∈ table, (change op).bitPattern = op.bitPattern) (w : Word12) :
    matchIn (table.map change) w = (matchIn table w).map change := by
  rw [matchIn, List.find?_map, matchIn]
  exact congrArg _ (List.find?_congr fun op hop => by simp [hpattern op hop])

/-- Settles O25: the entry found is the changed one of the entry found before, and `decode` uses its identity and its bit
pattern alone. -/
theorem metadataHasNoInfluence : Obligations.MetadataHasNoInfluence := by
  intro table change hkeep word
  rw [decodeIn, decodeIn, matchIn_map fun op hop => (hkeep op hop).2]
  cases hm : matchIn table (significantBits word) with
  | none => rfl
  | some op =>
    obtain ⟨hid, hpattern⟩ := hkeep op (matchIn_some hm).1
    simp only [Option.map_some, hid, hpattern]

/-- Settles O4: a mask is determined by the width of the entry's shape. -/
theorem formatsHaveTheirMasks : Obligations.FormatsHaveTheirMasks := by
  intro id
  constructor
  · cases id <;> rfl
  · rw [entryMask, entryWidth]
    cases (opcodeBitPattern id).operandShape <;> rfl

end Sys2Proof.Machine
end

section
/-! What the words decode to: the miscellaneous row (O29) and the totals (O31). -/

namespace Sys2Proof.Machine

/-! ### Decoding a word that matches a known entry -/

/-- A codec reads the bits of its shape's field alone (rule R106). -/
theorem codecDecode_eq_of_mod {tag : OperandShape} {ob w : Word12} (h : ob.toNat = w.toNat % 2 ^ shapeWidth tag) :
    codecDecode tag ob = codecDecode tag w := by
  have hregister : 5 ≤ shapeWidth tag → registerField ob = registerField w := fun hk =>
    BitVec.eq_of_toNat_eq (by
      rw [registerField_toNat, registerField_toNat, h, Nat.mod_mod_of_dvd _ (pow_dvd_pow 2 hk)])
  cases tag with
  | noOperands => rfl
  | file => simp only [codecDecode, fileDecode, hregister (by decide)]
  | fileAndDestination =>
    have hd : destinationField ob = destinationField w := BitVec.eq_of_toNat_eq (by
      simp only [destinationField_toNat, h, shapeWidth]
      omega)
    simp only [codecDecode, fileAndDestinationDecode, hregister (by decide), hd]
  | fileAndBitNumber =>
    have hb : bitIndexField ob = bitIndexField w := BitVec.eq_of_toNat_eq (by
      simp only [bitIndexField_toNat, h, shapeWidth]
      omega)
    simp only [codecDecode, fileAndBitNumberDecode, hregister (by decide), hb]
  | literal =>
    have hk : literalField ob = literalField w := BitVec.eq_of_toNat_eq (by
      rw [literalField_toNat, literalField_toNat, h, shapeWidth, Nat.mod_mod])
    simp only [codecDecode, literalDecode, hk]
  | goto =>
    have ha : addressField ob = addressField w := BitVec.eq_of_toNat_eq (by
      rw [addressField_toNat, addressField_toNat, h, shapeWidth, Nat.mod_mod])
    simp only [codecDecode, gotoDecode, ha]
  | tris =>
    have hs : selectorField ob = selectorField w := BitVec.eq_of_toNat_eq (by
      rw [selectorField_toNat, selectorField_toNat, h, shapeWidth, Nat.mod_mod])
    simp only [codecDecode, trisDecode, hs]

/-- A word that matches an entry decodes to what the codec of the entry's shape makes of the word's own fields. -/
theorem decode_of_matchId {word : Word16} {id : OpcodeId} (h : matchId (significantBits word) = some id) :
    decode word =
      (codecDecode (opcodeBitPattern id).operandShape (significantBits word)).map (Instruction.mk id) := by
  rw [decode_eq_matchId, h]
  simp only [codecDecode_eq_of_mod (operandBits_toNat id (significantBits word))]
  cases codecDecode (opcodeBitPattern id).operandShape (significantBits word) <;> rfl

theorem decode_congr {a b : Word16} (h : significantBits a = significantBits b) : decode a = decode b := by
  rw [decode_eq_matchId, decode_eq_matchId, h]

theorem registerField_significantBits (word : Word16) :
    registerField (significantBits word) = word.extractLsb' 0 5 := by
  apply BitVec.eq_of_toNat_eq
  simp only [registerField, significantBits, BitVec.extractLsb'_toNat, Nat.shiftRight_zero]
  omega

/-! ### The miscellaneous row -/

/-- A word below 0x008 decodes as its three low bits alone. -/
theorem decode_eq_selector {word : Word16} (h : word.extractLsb' 3 9 = 0#9) :
    decode word = decode (0#13 ++ word.extractLsb' 0 3) := by
  apply decode_congr
  apply BitVec.eq_of_toNat_eq
  have hhigh : word.toNat >>> 3 % 2 ^ 9 = 0 := by rw [← BitVec.extractLsb'_toNat, h]; rfl
  simp only [significantBits, BitVec.extractLsb'_toNat, toNat_append_eq_mul_add, BitVec.toNat_ofNat]
  omega

/-- The words 0x020 to 0x03F are those of movwf (rule R57). -/
theorem decode_movwf {word : Word16} (h : (significantBits word).toNat / 32 = 1) :
    decode word = (fileOperand (word.extractLsb' 0 5)).map (Instruction.mk .movwf) := by
  rw [← registerField_significantBits]
  exact decode_of_matchId (matchId_of_accepts ((accepts_iff .movwf _).2 h) (by decide))

/-- Settles O29: the eight selector words one by one, the gap by O15, and the row of movwf by the register check. -/
theorem miscellaneousRow : Obligations.MiscellaneousRow := by
  refine ⟨fun word h => ?_, fun word hlo hhi => ?_, fun word hlo hhi => ⟨fun r hr => ?_, fun hlo' hhi' => ?_⟩⟩
  · rw [decode_eq_selector h]
    generalize word.extractLsb' 0 3 = f
    revert f
    decide
  · exact (unmatchedWordsAreTwoRanges.2 word _).2 ⟨rfl, .inl ⟨hlo, hhi⟩⟩
  · rw [decode_movwf (by unfold significantBits; omega), ← hr, fileOperand, regfile_of_register]
    rfl
  · have hl : registerLegal (word.extractLsb' 0 5) = false := by
      rw [← registerField_significantBits, ← Bool.not_eq_true, registerLegal_iff, registerField_toNat, significantBits]
      omega
    rw [decode_movwf (by unfold significantBits; omega), fileOperand, regfile_of_illegal hl]
    rfl

end Sys2Proof.Machine
end

section
/-! How many words have each outcome (O31). The outcome is a function of the word's number whose values on
a row of 32 words repeat in the rows 3 to 63 and in the rows from 64 on, so the words are counted row by row. -/

namespace Sys2Proof.Machine

/-- 0 for a success, else the error's code (rule R197). -/
def resultCode : Except DecodeError Instruction → Nat
  | .ok _ => 0
  | .error e => decodeErrorCode e

/-- The outcome of a 12-bit value: unknown in the gap, two refused selectors, and the reserved registers 8 to 15 where
the entries with a register field lie (rules R57, R62, R63). -/
def outcomeAt (n : Nat) : Nat :=
  if inGap n then 1
  else if n = 0x001 ∨ n = 0x005 then 3
  else if 0x020 ≤ n ∧ n < 0x800 ∧ 8 ≤ n % 32 ∧ n % 32 ≤ 15 then 2
  else 0

/-- Where the entries with a register field lie, past the gap, the register number decides. -/
theorem outcomeAt_of_register {n : Nat} (hlo : 0x060 ≤ n) (hhi : n < 0x800) :
    outcomeAt n = if 8 ≤ n % 32 ∧ n % 32 ≤ 15 then 2 else 0 := by
  rw [outcomeAt, if_neg (by omega), if_neg (by omega)]
  exact if_congr (by omega) rfl rfl

theorem outcomeAt_of_literal {n : Nat} (h : 0x800 ≤ n) : outcomeAt n = 0 := by
  rw [outcomeAt, if_neg (by omega), if_neg (by omega), if_neg (by omega)]

/-- A codec with a register field puts the checked register into its operand. -/
theorem codecDecode_register {tag : OperandShape} (w : Word12)
    (htag : tag = .file ∨ tag = .fileAndDestination ∨ tag = .fileAndBitNumber) :
    ∃ operandOf : RegisterFile → Operand, codecDecode tag w = (regfile (registerField w)).map operandOf := by
  obtain rfl | rfl | rfl := htag
  · refine ⟨.file, ?_⟩
    rw [codecDecode, fileDecode, fileOperand]
    cases regfile (registerField w) <;> rfl
  · refine ⟨(.fileAndDestination · (destinationOf (destinationField w))), ?_⟩
    rw [codecDecode, fileAndDestinationDecode, fileAndDestinationOperand]
    cases regfile (registerField w) <;> rfl
  · refine ⟨(.fileAndBitNumber · (bitIndexField w)), ?_⟩
    rw [codecDecode, fileAndBitNumberDecode, fileAndBitNumberOperand]
    cases regfile (registerField w) <;> rfl

/-- A register operand is refused exactly for the reserved numbers, whatever is made of the register. -/
theorem resultCode_registerCodec (id : OpcodeId) {tag : OperandShape} (w : Word12)
    (htag : tag = .file ∨ tag = .fileAndDestination ∨ tag = .fileAndBitNumber) :
    resultCode ((codecDecode tag w).map (Instruction.mk id)) =
      if 8 ≤ w.toNat % 32 ∧ w.toNat % 32 ≤ 15 then 2 else 0 := by
  obtain ⟨operandOf, hcodec⟩ := codecDecode_register w htag
  have hlegal := registerLegal_iff (registerField w)
  rw [registerField_toNat] at hlegal
  rw [hcodec]
  obtain ⟨r, hnumber, hr⟩ | ⟨hillegal, hr⟩ := regfile_cases (registerField w)
  · have hrange := hlegal.1 (hnumber ▸ r.legal)
    rw [hr, if_neg (by omega)]
    rfl
  · have hreserved := mt hlegal.2 (by simp [hillegal])
    rw [hr, if_pos (by omega)]
    rfl

/-- The words that tris shares with nop, option, sleep and clrwdt, and those that it keeps (rule R96). -/
theorem resultCode_decode_selector : ∀ n < 8, resultCode (decode (BitVec.ofNat 16 n)) = outcomeAt n := by decide

theorem resultCode_decode {n : Nat} (hn : n < 4096) : resultCode (decode (BitVec.ofNat 16 n)) = outcomeAt n := by
  by_cases h8 : n < 8
  · exact resultCode_decode_selector n h8
  · have hw : (significantBits (BitVec.ofNat 16 n)).toNat = n := by
      simp only [significantBits, BitVec.extractLsb'_toNat, BitVec.toNat_ofNat, Nat.shiftRight_zero]
      omega
    cases hm : matchId (significantBits (BitVec.ofNat 16 n)) with
    | none =>
      have hgap : inGap n := hw ▸ (matchId_eq_none_iff_inGap _).1 hm
      rw [(decode_eq_unknownOpcode_iff _ _).2 ⟨rfl, hm⟩, outcomeAt, if_pos hgap]
      rfl
    | some id =>
      have harea := shapeArea_of_accepts (accepts_of_matchId hm)
      rw [hw] at harea
      rw [decode_of_matchId hm, outcomeAt, if_neg (not_inGap_of_shapeArea harea), if_neg (by omega)]
      cases hs : (opcodeBitPattern id).operandShape
      all_goals
        rw [hs] at harea
        simp only [shapeArea] at harea
      case file | fileAndDestination | fileAndBitNumber =>
        rw [resultCode_registerCodec id _ (by decide), hw]
        exact if_congr (by omega) rfl rfl
      case tris => omega
      case noOperands | literal | goto => exact (if_neg (by omega)).symm

/-! ### Counting by rows -/

/-- How many words of row `q` have the outcome `c`. -/
def rowCount (c q : Nat) : Nat := ((List.range 32).filter fun r => outcomeAt (32 * q + r) == c).length

theorem rowCount_congr (c : Nat) {p q : Nat} (h : ∀ r < 32, outcomeAt (32 * p + r) = outcomeAt (32 * q + r)) :
    rowCount c p = rowCount c q :=
  congrArg List.length (List.filter_congr fun r hr => by rw [h r (List.mem_range.1 hr)])

/-- Rows 3 to 63 hold entries with a register field only. -/
theorem rowCount_register (c : Nat) {q : Nat} (hlo : 3 ≤ q) (hhi : q < 64) : rowCount c q = rowCount c 3 :=
  rowCount_congr c fun r hr => by
    rw [outcomeAt_of_register (by omega) (by omega), outcomeAt_of_register (by omega) (by omega)]
    exact if_congr (by omega) rfl rfl

/-- Rows from 64 on hold the entries with a literal or a branch address. -/
theorem rowCount_literal (c : Nat) {q : Nat} (hlo : 64 ≤ q) : rowCount c q = rowCount c 64 :=
  rowCount_congr c fun r _ => by rw [outcomeAt_of_literal (by omega), outcomeAt_of_literal (by omega)]

theorem length_filter_outcomeAt_rows (c m : Nat) :
    ((List.range (32 * m)).filter fun n => outcomeAt n == c).length = ∑ q ∈ Finset.range m, rowCount c q := by
  induction m with
  | zero => rfl
  | succ m ih =>
    rw [Nat.mul_succ, List.range_add, List.filter_append, List.length_append, ih, Finset.sum_range_succ, List.filter_map,
      List.length_map]
    rfl

theorem length_filter_outcomeAt (c : Nat) : ((List.range 4096).filter fun n => outcomeAt n == c).length =
    rowCount c 0 + rowCount c 1 + rowCount c 2 + 61 * rowCount c 3 + 64 * rowCount c 64 := by
  have hregister : ∑ q ∈ Finset.range 61, rowCount c (3 + q) = 61 * rowCount c 3 := by
    rw [Finset.sum_congr rfl fun q hq =>
      rowCount_register c (by omega) (Nat.add_lt_add_left (Finset.mem_range.1 hq) 3)]
    simp
  have hliteral : ∑ q ∈ Finset.range 64, rowCount c (64 + q) = 64 * rowCount c 64 := by
    rw [Finset.sum_congr rfl fun q _ => rowCount_literal c (Nat.le_add_right 64 q)]
    simp
  calc ((List.range 4096).filter fun n => outcomeAt n == c).length
    _ = ∑ q ∈ Finset.range (3 + 61 + 64), rowCount c q := length_filter_outcomeAt_rows c 128
    _ = ∑ q ∈ Finset.range 3, rowCount c q + ∑ q ∈ Finset.range 61, rowCount c (3 + q) +
          ∑ q ∈ Finset.range 64, rowCount c (64 + q) := by rw [Finset.sum_range_add, Finset.sum_range_add]
    _ = _ := by rw [hregister, hliteral, Finset.sum_range_succ, Finset.sum_range_succ, Finset.sum_range_one]

theorem length_filter_resultCode (c : Nat) :
    ((List.range 4096).filter fun n => resultCode (decode (BitVec.ofNat 16 n)) == c).length =
      rowCount c 0 + rowCount c 1 + rowCount c 2 + 61 * rowCount c 3 + 64 * rowCount c 64 := by
  rw [← length_filter_outcomeAt]
  exact congrArg List.length (List.filter_congr fun n hn => by rw [resultCode_decode (List.mem_range.1 hn)])

/-- Settles O31: rows 0, 1 and 2, 61 rows like row 3 and 64 like row 64. -/
theorem decodeOutcomeTotals : Obligations.DecodeOutcomeTotals := by
  refine ⟨(length_filter_resultCode 0).trans ?_, (length_filter_resultCode 2).trans ?_,
    (length_filter_resultCode 3).trans ?_, (length_filter_resultCode 1).trans ?_⟩
  all_goals decide

end Sys2Proof.Machine
end

section
/-! The checks of the pattern compiler on a string given as its opcode field and its residual, in the order of rule R83:
one equation for each answer (O10). -/

namespace Sys2Proof.Machine

/-- A string over the alphabet, cut where rule R75 cuts it: binary digits, then a residual that starts with none. -/
structure IsSplit (field residual : List Char) : Prop where
  digits : ∀ x ∈ field, x = '0' ∨ x = '1'
  letters : ∀ x ∈ residual, x ∈ patternAlphabet
  boundary : ∀ x ∈ residual.head?, x ≠ '0' ∧ x ≠ '1'

theorem isOpcodeDigit_iff (c : Char) : isOpcodeDigit c = true ↔ c = '0' ∨ c = '1' := by
  simp [isOpcodeDigit]

theorem firstBadCharacter_eq_none_iff (s : List Char) :
    firstBadCharacter s = none ↔ ∀ x ∈ s, x ∈ patternAlphabet := by
  simp [firstBadCharacter]

/-- The first bad character is found whatever stands behind it (rule R73). -/
theorem firstBadCharacter_append_cons {before after : List Char} {c : Char}
    (hbefore : ∀ x ∈ before, x ∈ patternAlphabet) (hc : c ∉ patternAlphabet) :
    firstBadCharacter (before ++ c :: after) = some c := by
  rw [firstBadCharacter, List.find?_append, ← firstBadCharacter, (firstBadCharacter_eq_none_iff before).2 hbefore,
    Option.none_or]
  exact List.find?_cons_of_pos (by simpa using hc)

theorem compileStripped_of_badCharacter {s : List Char} {c : Char} (h : firstBadCharacter s = some c) :
    compileStripped s = .error (.badCharacter c) := by
  simp [compileStripped, h]

namespace IsSplit

variable {field residual : List Char} (h : IsSplit field residual)
include h

theorem field_isOpcodeDigit : ∀ x ∈ field, isOpcodeDigit x = true := fun x hx =>
  (isOpcodeDigit_iff x).2 (h.digits x hx)

theorem opcodeField_append : opcodeField (field ++ residual) = field := by
  rw [opcodeField, List.takeWhile_append_of_pos h.field_isOpcodeDigit]
  cases residual with
  | nil => simp
  | cons x rest =>
    have hx : ¬ isOpcodeDigit x = true := by simpa [isOpcodeDigit_iff] using h.boundary x rfl
    rw [List.takeWhile_cons_of_neg hx, List.append_nil]

theorem residualOf_append : residualOf (field ++ residual) = residual := by
  have hs := opcodeField_append_residualOf (field ++ residual)
  rw [h.opcodeField_append] at hs
  exact List.append_cancel_left hs

theorem firstBadCharacter_append : firstBadCharacter (field ++ residual) = none := by
  refine (firstBadCharacter_eq_none_iff _).2 fun x hx => ?_
  obtain hx | hx := List.mem_append.1 hx
  · obtain rfl | rfl := h.digits x hx
    all_goals decide
  · exact h.letters x hx

/-- The check of the opcode field's length (rule R76). -/
theorem compileStripped_of_badLength (hn : field.length = 0 ∨ 12 < field.length) :
    compileStripped (field ++ residual) = .error (.badOpcodeLength field.length) := by
  simp only [compileStripped, h.firstBadCharacter_append, h.opcodeField_append, if_pos hn]

/-- The check of the residual (rule R78). -/
theorem compileStripped_of_unknownShape (hlo : 1 ≤ field.length) (hhi : field.length ≤ 12)
    (hshape : ∀ tag, residual ≠ shapeLetters tag) :
    compileStripped (field ++ residual) = .error (.unknownShape residual) := by
  have hnone : shapeOfResidual residual = none :=
    Option.eq_none_iff_forall_ne_some.2 fun tag htag => hshape tag (shapeOfResidual_some htag)
  have hn : ¬ (field.length = 0 ∨ 12 < field.length) := by omega
  simp only [compileStripped, h.firstBadCharacter_append, h.opcodeField_append, h.residualOf_append, if_neg hn, hnone]

end IsSplit

section
variable {field : List Char} {tag : OperandShape} (h : IsSplit field (shapeLetters tag))
include h

/-- The check of the widths (rule R81). -/
theorem compileStripped_of_widthMismatch (hlo : 1 ≤ field.length) (hhi : field.length ≤ 12)
    (hw : field.length + shapeWidth tag ≠ 12) :
    compileStripped (field ++ shapeLetters tag) = .error (.widthMismatch field.length tag) := by
  have hn : ¬ (field.length = 0 ∨ 12 < field.length) := by omega
  simp only [compileStripped, h.firstBadCharacter_append, h.opcodeField_append, h.residualOf_append, if_neg hn,
    shapeOfResidual_shapeLetters, if_neg hw]

/-- The result when no check fails (rules R77, R79). -/
theorem compileStripped_of_fits (hlo : 1 ≤ field.length) (hw : field.length + shapeWidth tag = 12) :
    compileStripped (field ++ shapeLetters tag) =
      .ok ⟨BitVec.ofNat 12 ((accumulateOpcode (0, 0) field).1 * 2 ^ (12 - field.length)),
        BitVec.ofNat 12 ((accumulateOpcode (0, 0) field).2 * 2 ^ (12 - field.length)), tag⟩ := by
  have hn : ¬ (field.length = 0 ∨ 12 < field.length) := by omega
  simp only [compileStripped, h.firstBadCharacter_append, h.opcodeField_append, h.residualOf_append, if_neg hn,
    shapeOfResidual_shapeLetters, if_pos hw]

end

/-- Settles O10: one equation of the compiler for each check. -/
theorem compileReportsTheFirstFailingCheck : Obligations.CompileReportsTheFirstFailingCheck := by
  refine ⟨fun before after c hbefore hc => ?_, fun field residual hdigits hletters hboundary => ?_⟩
  · exact compileStripped_of_badCharacter (firstBadCharacter_append_cons hbefore hc)
  · have h : IsSplit field residual := ⟨hdigits, hletters, hboundary⟩
    refine ⟨h.compileStripped_of_badLength, h.compileStripped_of_unknownShape, ?_⟩
    rintro tag hlo hhi rfl hw
    exact compileStripped_of_widthMismatch h hlo hhi hw

end Sys2Proof.Machine
end

section
/-! The compiler in closed form: it accepts the strings of binary digits that a shape string completes to 12 characters,
and its result is the digits' number and a mask of ones, both at the top of 12 bits (O7, O8, O9, rule R86). -/

namespace Sys2Proof.Machine

/-! ### Binary digits as characters and as a number -/

/-- The opcode field that writes the given binary digits. -/
def digitChars (digits : List Bool) : List Char := digits.map fun c => if c then '1' else '0'

/-- The number that binary digits write, most significant first. -/
def digitsNumber (digits : List Bool) : Nat := Nat.ofDigits 2 (digits.map Bool.toNat).reverse

@[simp] theorem digitChars_length (digits : List Bool) : (digitChars digits).length = digits.length :=
  List.length_map _

theorem exists_digitChars {field : List Char} (h : ∀ x ∈ field, x = '0' ∨ x = '1') :
    ∃ digits, field = digitChars digits := by
  refine ⟨field.map (· == '1'), ?_⟩
  rw [digitChars, List.map_map]
  refine (List.map_id field).symm.trans (List.map_congr_left fun x hx => ?_)
  obtain rfl | rfl := h x hx
  all_goals rfl

theorem isSplit_digitChars_shapeLetters (digits : List Bool) (tag : OperandShape) :
    IsSplit (digitChars digits) (shapeLetters tag) where
  digits x hx := by
    obtain ⟨b, -, rfl⟩ := List.mem_map.1 hx
    cases b <;> simp
  letters := by cases tag <;> simp [shapeLetters, patternAlphabet]
  boundary := by cases tag <;> simp [shapeLetters]

theorem digitsNumber_cons (b : Bool) (rest : List Bool) :
    digitsNumber (b :: rest) = b.toNat * 2 ^ rest.length + digitsNumber rest := by
  simp only [digitsNumber, List.map_cons, List.reverse_cons, Nat.ofDigits_append, Nat.ofDigits_singleton,
    List.length_reverse, List.length_map]
  ring

theorem lt_two_of_mem_digits (digits : List Bool) : ∀ x ∈ (digits.map Bool.toNat).reverse, x < 2 := by
  intro x hx
  obtain ⟨b, -, rfl⟩ := List.mem_map.1 (List.mem_reverse.1 hx)
  exact b.toNat_lt

theorem digitsNumber_lt (digits : List Bool) : digitsNumber digits < 2 ^ digits.length := by
  simpa [digitsNumber] using Nat.ofDigits_lt_base_pow_length Nat.one_lt_two (lt_two_of_mem_digits digits)

/-- Equally many digits that write the same number are the same digits. -/
theorem digitsNumber_inj {a b : List Bool} (hlen : a.length = b.length) (h : digitsNumber a = digitsNumber b) :
    a = b := by
  have hdigits : (a.map Bool.toNat).reverse = (b.map Bool.toNat).reverse :=
    Nat.ofDigits_inj_of_len_eq Nat.one_lt_two (by simp [hlen]) (lt_two_of_mem_digits a) (lt_two_of_mem_digits b) h
  have hbit : Function.Injective Bool.toNat := by decide +revert
  exact List.map_injective_iff.2 hbit (List.reverse_injective hdigits)

/-- The accumulation of rule R77 from any point on: each digit is shifted in, and so is a one into the mask. -/
theorem accumulateOpcode_digitChars (op mask : Nat) (digits : List Bool) :
    accumulateOpcode (op, mask) (digitChars digits) =
      (op * 2 ^ digits.length + digitsNumber digits, mask * 2 ^ digits.length + (2 ^ digits.length - 1)) := by
  induction digits generalizing op mask with
  | nil => simp [digitChars, accumulateOpcode, digitsNumber]
  | cons b rest ih =>
    have hone : (if (if b then '1' else '0') = '1' then 1 else 0) = b.toNat := by cases b <;> rfl
    change accumulateOpcode (2 * op + _, 2 * mask + 1) (digitChars rest) = _
    rw [ih, hone, digitsNumber_cons, List.length_cons, pow_succ]
    refine Prod.ext (by ring) ?_
    have hmask : (2 * mask + 1) * 2 ^ rest.length = mask * (2 ^ rest.length * 2) + 2 ^ rest.length := by ring
    have hpos := Nat.two_pow_pos rest.length
    simp only [hmask]
    omega

/-! ### The result of an accepted pattern -/

/-- What a pattern compiles to: its digits and as many ones, shifted to the top of 12 bits (rules R79, R86). -/
def compiledPattern (digits : List Bool) (tag : OperandShape) : BitPattern :=
  ⟨BitVec.ofNat 12 (digitsNumber digits * 2 ^ (12 - digits.length)),
    BitVec.ofNat 12 ((2 ^ digits.length - 1) * 2 ^ (12 - digits.length)), tag⟩

theorem compileStripped_digitChars {digits : List Bool} {tag : OperandShape} (hlo : 1 ≤ digits.length)
    (hw : digits.length + shapeWidth tag = 12) :
    compileStripped (digitChars digits ++ shapeLetters tag) = .ok (compiledPattern digits tag) := by
  rw [compileStripped_of_fits (isSplit_digitChars_shapeLetters digits tag) (by simpa using hlo) (by simpa using hw)]
  simp [accumulateOpcode_digitChars, compiledPattern]

/-- An accepted string is digits and the shape string that completes them to 12 characters (rules R80, R86). -/
theorem exists_digits_of_compileStripped {s : List Char} {bp : BitPattern} (h : compileStripped s = .ok bp) :
    ∃ digits, 1 ≤ digits.length ∧ digits.length + shapeWidth bp.operandShape = 12 ∧
      s = digitChars digits ++ shapeLetters bp.operandShape ∧ bp = compiledPattern digits bp.operandShape := by
  obtain ⟨digits, hdigits⟩ : ∃ digits, opcodeField s = digitChars digits := exists_digitChars fun x hx =>
    (isOpcodeDigit_iff x).1 (List.mem_takeWhile_imp hx)
  obtain ⟨_, -, hc⟩ | ⟨-, -, hc⟩ | ⟨-, -, hc⟩ | ⟨_, -, -, -, hc⟩ | ⟨tag, -, hres, hlo, hw, hc⟩ :=
    compileStripped_cases s
  all_goals cases hc.symm.trans h
  rw [hdigits, digitChars_length] at hlo hw
  have hs : s = digitChars digits ++ shapeLetters tag := by
    rw [← hdigits, ← hres, opcodeField_append_residualOf]
  refine ⟨digits, hlo, hw, hs, ?_⟩
  have hok := compileStripped_digitChars hlo hw
  rw [← hs, h] at hok
  exact Except.ok.inj hok

/-- A number of `n` digits keeps all of them when it is shifted to the top of 12 bits. -/
theorem toNat_shiftedToTop {m n : Nat} (hm : m < 2 ^ n) (hn : n ≤ 12) :
    (BitVec.ofNat 12 (m * 2 ^ (12 - n))).toNat = m * 2 ^ (12 - n) := by
  rw [BitVec.toNat_ofNat]
  refine Nat.mod_eq_of_lt ?_
  calc m * 2 ^ (12 - n)
    _ < 2 ^ n * 2 ^ (12 - n) := Nat.mul_lt_mul_of_pos_right hm (Nat.two_pow_pos _)
    _ = 2 ^ 12 := by rw [← pow_add, Nat.add_sub_cancel' hn]

theorem compiledPattern_opcode_toNat {digits : List Bool} (tag : OperandShape) (h : digits.length ≤ 12) :
    (compiledPattern digits tag).opcode.toNat = digitsNumber digits * 2 ^ (12 - digits.length) :=
  toNat_shiftedToTop (digitsNumber_lt digits) h

theorem compiledPattern_mask_toNat {digits : List Bool} (tag : OperandShape) (h : digits.length ≤ 12) :
    (compiledPattern digits tag).mask.toNat = (2 ^ digits.length - 1) * 2 ^ (12 - digits.length) :=
  toNat_shiftedToTop (Nat.sub_lt (Nat.two_pow_pos _) Nat.one_pos) h

theorem compiledPattern_opcode_and_mask {digits : List Bool} (tag : OperandShape) (h : digits.length ≤ 12) :
    (compiledPattern digits tag).opcode &&& (compiledPattern digits tag).mask =
      (compiledPattern digits tag).opcode := by
  have hmask := and_highMask (compiledPattern digits tag).opcode (12 - digits.length) (Nat.sub_le _ _)
  rw [Nat.sub_sub_self h] at hmask
  refine hmask.trans (BitVec.eq_of_toNat_eq ?_)
  have hlt := (compiledPattern digits tag).opcode.isLt
  rw [BitVec.toNat_shiftLeft, BitVec.toNat_ushiftRight, Nat.shiftLeft_eq, Nat.shiftRight_eq_div_pow]
  rw [compiledPattern_opcode_toNat tag h] at hlt ⊢
  rw [Nat.mul_div_cancel _ (Nat.two_pow_pos _), Nat.mod_eq_of_lt hlt]

theorem compiledPattern_inj {a b : List Bool} {tag : OperandShape} (hlen : a.length = b.length) (ha : a.length ≤ 12)
    (h : compiledPattern a tag = compiledPattern b tag) : a = b := by
  have hop := congrArg (fun bp => bp.opcode.toNat) h
  simp only [compiledPattern_opcode_toNat tag ha, compiledPattern_opcode_toNat tag (hlen ▸ ha), hlen] at hop
  exact digitsNumber_inj hlen (Nat.eq_of_mul_eq_mul_right (Nat.two_pow_pos _) hop)

/-! ### The obligations -/

/-- Settles O8: the digits and the shape string pass every check, and the accumulation writes the digits' number. -/
theorem compileHasItsClosedForm : Obligations.CompileHasItsClosedForm := by
  intro digits tag hlo hw
  exact compileStripped_digitChars hlo hw

/-- Settles O7: the result is the closed form of some digits, whose match value and mask lie in the top bits. -/
theorem compiledPatternsAreWellFormed : Obligations.CompiledPatternsAreWellFormed := by
  intro ws pattern bp h
  obtain ⟨digits, -, hw, -, hbp⟩ := exists_digits_of_compileStripped h
  have hlen : digits.length ≤ 12 := by omega
  have hcount : digits.length = 12 - shapeWidth bp.operandShape := by omega
  constructor
  · rw [hbp, ← compiledPattern_opcode_and_mask _ hlen]
    simp [BitVec.and_assoc]
  · rw [congrArg (fun p => p.mask.toNat) hbp, compiledPattern_mask_toNat _ hlen, hcount, Nat.sub_sub_self (by omega)]

/-- Settles O9: an accepted string is its digits and its shape string, and the result determines both. -/
theorem compileAcceptsOnlyDigitsThenShape : Obligations.CompileAcceptsOnlyDigitsThenShape := by
  refine ⟨fun s bp h => ?_, fun s s' bp h h' => ?_⟩
  · obtain ⟨digits, hlo, hw, hs, -⟩ := exists_digits_of_compileStripped h
    exact ⟨digits, hlo, hw, hs⟩
  · obtain ⟨digits, -, hw, hs, hbp⟩ := exists_digits_of_compileStripped h
    obtain ⟨digits', -, hw', hs', hbp'⟩ := exists_digits_of_compileStripped h'
    have hdigits : digits = digits' := compiledPattern_inj (by omega) (by omega) (hbp.symm.trans hbp')
    rw [hs, hs', hdigits]

end Sys2Proof.Machine
end

section
/-! Whitespace (O11, O12), and the table built from its pattern strings (O13). -/

namespace Sys2Proof.Machine

/-- Settles O11: the character is removed before any check. -/
theorem whitespaceIsIgnored : Obligations.WhitespaceIsIgnored := by
  intro ws before after c hc
  have hstrip : stripPattern ws (before ++ c :: after) = stripPattern ws (before ++ after) := by
    simp [stripPattern, hc]
  rw [compileWith, hstrip, compileWith]

/-- Only the whitespace characters of the pattern itself matter. -/
theorem stripPattern_congr {ws ws' pattern : List Char} (h : ∀ c ∈ pattern, c ∈ ws ↔ c ∈ ws') :
    stripPattern ws pattern = stripPattern ws' pattern :=
  List.filter_congr fun c hc => by simp [h c hc]

theorem mem_patternAlphabet_of_compileStripped {s : List Char} {bp : BitPattern} (h : compileStripped s = .ok bp) :
    ∀ c ∈ s, c ∈ patternAlphabet := by
  obtain ⟨digits, -, -, hs, -⟩ := exists_digits_of_compileStripped h
  rw [← firstBadCharacter_eq_none_iff, hs]
  exact (isSplit_digitChars_shapeLetters digits bp.operandShape).firstBadCharacter_append

/-- A pattern accepted with the space as the only whitespace is accepted with the same result for every set that has the
space and no character of the alphabet: its other characters are all of the alphabet. -/
theorem compileWith_of_space {ws pattern : List Char} {bp : BitPattern} (hspace : ' ' ∈ ws)
    (halphabet : ∀ c ∈ patternAlphabet, c ∉ ws) (h : compileWith [' '] pattern = .ok bp) :
    compileWith ws pattern = .ok bp := by
  have hstrip : stripPattern ws pattern = stripPattern [' '] pattern := by
    refine stripPattern_congr fun c hc => ?_
    by_cases hcs : c = ' '
    · simp [hcs, hspace]
    · have hkept : c ∈ stripPattern [' '] pattern := List.mem_filter.2 ⟨hc, by simpa using hcs⟩
      simp [hcs, halphabet c (mem_patternAlphabet_of_compileStripped h c hkept)]
  rw [compileWith, hstrip]
  exact h

/-- The 33 shipped pattern strings compile, with the space as the only whitespace, to the listed literals (rule R92). -/
theorem compileWith_space_opcodePattern (id : OpcodeId) :
    compileWith [' '] (opcodePattern id).toList = .ok (opcodeBitPattern id) := by
  cases id <;> decide

/-- Settles O12: the shipped pattern strings use the space alone as whitespace. -/
theorem whitespaceSetLeavesTheTable : Obligations.WhitespaceSetLeavesTheTable := by
  intro ws hspace halphabet id
  exact compileWith_of_space hspace halphabet (compileWith_space_opcodePattern id)

/-- The shipped pattern strings compile with the spec's own whitespace set (rule R92, decision D6). -/
theorem compile_opcodePattern (id : OpcodeId) : compile (opcodePattern id) = .ok (opcodeBitPattern id) :=
  whitespaceSetLeavesTheTable Config.whitespace (by decide) (by simp [Config.whitespace]) id

/-- The construction from pattern strings gives the entries of their identities, in order (rule R92). -/
theorem elaborateTable_opcodePatterns (ids : List OpcodeId) :
    elaborateTable (ids.map fun id => (id, opcodePattern id)) = .ok (ids.map entryOf) := by
  induction ids with
  | nil => rfl
  | cons id rest ih =>
    simp only [List.map_cons, elaborateTable, compile_opcodePattern, ih]
    rfl

/-- Settles O13: a failed construction gives no table, and this hardware's gives `TABLE`. -/
theorem noTableNoDecoder : Obligations.NoTableNoDecoder := by
  refine ⟨fun e s => rfl, fun s => ?_⟩
  have hbuilt : elaborateTable tableSource = .ok TABLE := elaborateTable_opcodePatterns declarationOrder
  rw [hbuilt, stepBlock]

end Sys2Proof.Machine
end

section
/-! Which entries share a word (O16, O17). Entries that share a word are one entry or one of them is tris, and the eight
words of tris are listed with their matches (rules R95, R96, R97). -/

namespace Sys2Proof.Machine

/-- The match of each of the eight words that tris accepts (rules R60, R95). -/
def selectorMatch : Nat → OpcodeId
  | 0 => .nop
  | 2 => .option
  | 3 => .sleep
  | 4 => .clrwdt
  | _ => .tris

theorem matchId_ofNat_selector : ∀ n < 8, matchId (BitVec.ofNat 12 n) = some (selectorMatch n) := by decide

theorem matchId_of_lt_eight {w : Word12} (h : w.toNat < 8) : matchId w = some (selectorMatch w.toNat) := by
  simpa using matchId_ofNat_selector w.toNat h

theorem selectorMatch_cases (n : Nat) :
    (n = 0 ∧ selectorMatch n = .nop ∨ n = 2 ∧ selectorMatch n = .option ∨ n = 3 ∧ selectorMatch n = .sleep ∨
      n = 4 ∧ selectorMatch n = .clrwdt) ∨ selectorMatch n = .tris := by
  unfold selectorMatch
  split <;> simp

theorem lt_eight_of_accepts_tris {w : Word12} (h : accepts (opcodeBitPattern .tris) w = true) : w.toNat < 8 :=
  shapeArea_of_accepts h

/-- Of two entries that share a word, one is tris (rule R96). -/
theorem eq_tris_of_accepts {w : Word12} {a b : OpcodeId} (ha : accepts (opcodeBitPattern a) w = true)
    (hb : accepts (opcodeBitPattern b) w = true) (hat : a ≠ .tris) (hab : a ≠ b) : b = .tris := by
  by_contra hbt
  have hmatch : some a = some b := (matchId_of_accepts ha hat).symm.trans (matchId_of_accepts hb hbt)
  exact hab (Option.some.inj hmatch)

/-- Settles O16: the other entry is tris, so the word is one of its eight, and the entry is the word's match. -/
theorem overlapsAreFourPairsWithTris : Obligations.OverlapsAreFourPairsWithTris := by
  intro w a b hat hab
  constructor
  · rintro ⟨ha, hb⟩
    obtain rfl := eq_tris_of_accepts ha hb hat hab
    have hmatch : some a = some (selectorMatch w.toNat) :=
      (matchId_of_accepts ha hat).symm.trans (matchId_of_lt_eight (lt_eight_of_accepts_tris hb))
    obtain rfl := Option.some.inj hmatch
    refine ⟨rfl, ?_⟩
    simpa [BitVec.toNat_eq] using (selectorMatch_cases w.toNat).resolve_right hat
  · rintro ⟨rfl, ⟨rfl, rfl⟩ | ⟨rfl, rfl⟩ | ⟨rfl, rfl⟩ | ⟨rfl, rfl⟩⟩
    all_goals decide

theorem accepts_opcode (bp : BitPattern) : accepts bp bp.opcode = true := beq_self_eq_true _

theorem matchOpcode_of_lt_eight {w : Word12} (h : w.toNat < 8) :
    matchOpcode w = some (entryOf (selectorMatch w.toNat)) := by
  rw [matchOpcode_eq_map, matchId_of_lt_eight h, Option.map_some]

/-- Settles O17: an entry accepts its own match value, and the other three words are words of tris. -/
theorem matchOfOwnMatchValue : Obligations.MatchOfOwnMatchValue := by
  refine ⟨fun id hid => ?_, matchOpcode_of_lt_eight (by decide), matchOpcode_of_lt_eight (by decide),
    matchOpcode_of_lt_eight (by decide)⟩
  rw [matchOpcode_eq_map, matchId_of_accepts (accepts_opcode _) hid, Option.map_some]

end Sys2Proof.Machine
end

section
/-! Match and lookup by name on any table (O14, O19), and the table built from its pattern strings (O6). -/

namespace Sys2Proof.Machine

/-- Settles O6: each pattern string compiles, and so the construction meets no error. -/
theorem shippedPatternsCompile : Obligations.ShippedPatternsCompile :=
  ⟨compile_opcodePattern, elaborateTable_opcodePatterns declarationOrder⟩

/-- Acceptance as the equation of rule R94. -/
theorem accepts_eq_true_iff (bp : BitPattern) (w : Word12) :
    accepts bp w = true ↔ w &&& bp.mask = bp.opcode &&& bp.mask := beq_iff_eq

theorem accepts_eq_false_iff (bp : BitPattern) (w : Word12) :
    accepts bp w = false ↔ w &&& bp.mask ≠ bp.opcode &&& bp.mask := beq_eq_false_iff_ne

/-- Settles O14: the first entry of a search is preceded by entries that fail its test. -/
theorem matchIsTheFirstAcceptingEntry : Obligations.MatchIsTheFirstAcceptingEntry := by
  refine fun table w => ⟨fun op => ?_, ?_⟩
  · simp only [matchIn, List.find?_eq_some_iff_append, Bool.not_eq_true', accepts_eq_true_iff, accepts_eq_false_iff]
    constructor
    · rintro ⟨haccepts, before, after, hsplit, hbefore⟩
      exact ⟨before, after, hsplit, haccepts, hbefore⟩
    · rintro ⟨before, after, hsplit, haccepts, hbefore⟩
      exact ⟨haccepts, before, after, hsplit, hbefore⟩
  · simp only [matchIn, List.find?_eq_none, accepts_eq_true_iff, ne_eq]

/-- In a table whose names are distinct, each entry is found by its name (rule R99). -/
theorem byNameIn_name {table : List Opcode} (hnames : (table.map Opcode.name).Nodup) {op : Opcode} (hop : op ∈ table) :
    byNameIn table op.name = some op := by
  cases hfound : byNameIn table op.name with
  | none => simpa using List.find?_eq_none.1 hfound op hop
  | some found =>
    have hname : found.name = op.name := by simpa using List.find?_some hfound
    rw [List.inj_on_of_nodup_map hnames (List.mem_of_find?_eq_some hfound) hop hname]

theorem byNameIn_eq_none_iff (table : List Opcode) (name : String) :
    byNameIn table name = none ↔ ∀ op ∈ table, op.name ≠ name := by
  simp [byNameIn]

/-- The 33 names are distinct (rules R20, R99). -/
theorem nodup_opcodeNames : (declarationOrder.map opcodeName).Nodup := by decide

theorem opcodeName_injective {a b : OpcodeId} (h : opcodeName a = opcodeName b) : a = b :=
  List.inj_on_of_nodup_map nodup_opcodeNames (mem_declarationOrder a) (mem_declarationOrder b) h

theorem nodup_TABLE_names : (TABLE.map Opcode.name).Nodup := by
  rw [TABLE, List.map_map]
  exact nodup_opcodeNames

/-- Settles O19: the table's names are distinct, and each is the name of an identity. -/
theorem lookupByNameIsExact : Obligations.LookupByNameIsExact := by
  refine ⟨fun id => byNameIn_name nodup_TABLE_names (entryOf_mem_TABLE id), fun name hname => ?_,
    fun a b => opcodeName_injective⟩
  refine (byNameIn_eq_none_iff TABLE name).2 fun op hop => ?_
  rw [eq_entryOf_of_mem hop]
  exact hname op.id

end Sys2Proof.Machine
end

section
/-! The register check (O20), and what the twenty instructions with a register field answer to a number that it refuses
(O45). -/

namespace Sys2Proof.Machine

/-! ### The register check -/

theorem registerLegal_eq_false_iff (n : BitVec 5) : registerLegal n = false ↔ 8 ≤ n.toNat ∧ n.toNat ≤ 15 := by
  rw [← Bool.not_eq_true, registerLegal_iff]
  omega

theorem regfile_eq_ok_iff (n : BitVec 5) (r : RegisterFile) : regfile n = .ok r ↔ r.number = n := by
  constructor
  · intro h
    obtain ⟨r', hnumber, hr'⟩ | ⟨-, herror⟩ := regfile_cases n
    · cases hr'.symm.trans h
      exact hnumber
    · cases herror.symm.trans h
  · rintro rfl
    exact regfile_of_register r

theorem regfile_eq_error_iff (n : BitVec 5) (e : DecodeError) :
    regfile n = .error e ↔ registerLegal n = false ∧ e = .invalidRegister n := by
  constructor
  · intro h
    obtain ⟨r, -, hr⟩ | ⟨hillegal, herror⟩ := regfile_cases n
    · cases hr.symm.trans h
    · cases herror.symm.trans h
      exact ⟨hillegal, rfl⟩
  · rintro ⟨hillegal, rfl⟩
    exact regfile_of_illegal hillegal

/-- The numbers 8 to 15 are those of an aligned block, so the two bits above it tell them apart (rule R107). -/
theorem extractLsb'_three_two_eq_one_iff (n : BitVec 5) :
    n.extractLsb' 3 2 = 0b01#2 ↔ 8 ≤ n.toNat ∧ n.toNat ≤ 15 := by
  rw [← BitVec.toNat_inj, BitVec.extractLsb'_toNat, Nat.shiftRight_eq_div_pow]
  have := n.isLt
  change n.toNat / 2 ^ 3 % 2 ^ 2 = 1 ↔ _
  omega

/-- Settles O20: the register check refuses what is not legal, and legal is what lies outside 8 to 15. -/
theorem registerCheckRefusesEightToFifteen : Obligations.RegisterCheckRefusesEightToFifteen := by
  refine fun n => ⟨?_, extractLsb'_three_two_eq_one_iff n, fun h => ?_⟩
  · rw [regfile_eq_error_iff, registerLegal_eq_false_iff, and_iff_left rfl]
  · exact ⟨⟨n, (registerLegal_iff n).2 h⟩, rfl, (regfile_eq_ok_iff n _).2 rfl⟩

/-! ### Instructions on a reserved register -/

theorem fileOperand_of_illegal {f : BitVec 5} (h : registerLegal f = false) :
    fileOperand f = .error (.invalidRegister f) := by
  rw [fileOperand, regfile_of_illegal h]

theorem fileAndDestinationOperand_of_illegal (d : BitVec 1) {f : BitVec 5} (h : registerLegal f = false) :
    fileAndDestinationOperand d f = .error (.invalidRegister f) := by
  rw [fileAndDestinationOperand, regfile_of_illegal h]

theorem fileAndBitNumberOperand_of_illegal (b : BitVec 3) {f : BitVec 5} (h : registerLegal f = false) :
    fileAndBitNumberOperand b f = .error (.invalidRegister f) := by
  rw [fileAndBitNumberOperand, regfile_of_illegal h]

/-- A meaning whose operand is an error returns it and changes nothing else (rule R205). -/
theorem answers_of_error {x : Except DecodeError Operand} {e : DecodeError} (h : x = .error e) (s : State)
    (id : OpcodeId) : s.answers id x = .next (s.afterCall (.error e)) := by
  rw [h]
  rfl

/-- Settles O45: the three operands with a register field pass on the error of the register check, and each of the
twenty meanings answers with one of them. -/
theorem reservedRegisterMeanings : Obligations.ReservedRegisterMeanings := by
  intro s d b f hlo hhi
  have hillegal := (registerLegal_eq_false_iff f).2 ⟨hlo, hhi⟩
  have hfile := answers_of_error (fileOperand_of_illegal hillegal) s
  have hdest := answers_of_error (fileAndDestinationOperand_of_illegal d hillegal) s
  have hbit := answers_of_error (fileAndBitNumberOperand_of_illegal b hillegal) s
  simp only [List.forall_mem_cons]
  exact ⟨hdest .addwf, hdest .andwf, hfile .clrf, hdest .comf, hdest .decf, hdest .decfsz, hdest .incf, hdest .incfsz,
    hdest .iorwf, hdest .movf, hfile .movwf, hdest .rlf, hdest .rrf, hdest .subwf, hdest .swapf, hdest .xorwf,
    hbit .bcf, hbit .bsf, hbit .btfsc, hbit .btfss, List.forall_mem_nil _⟩

end Sys2Proof.Machine
end

section
/-! The operand codecs invert each other on their fields (O21, O22), and read nothing else (O23). -/

namespace Sys2Proof.Machine

/-! ### The operands that the fields give -/

theorem fileOperand_eq_ok_iff (f : BitVec 5) (x : Operand) :
    fileOperand f = .ok x ↔ ∃ r, r.number = f ∧ x = .file r := by
  simp only [← regfile_eq_ok_iff, fileOperand]
  cases regfile f <;> simp [eq_comm]

theorem fileAndDestinationOperand_eq_ok_iff (d : BitVec 1) (f : BitVec 5) (x : Operand) :
    fileAndDestinationOperand d f = .ok x ↔ ∃ r, r.number = f ∧ x = .fileAndDestination r (destinationOf d) := by
  simp only [← regfile_eq_ok_iff, fileAndDestinationOperand]
  cases regfile f <;> simp [eq_comm]

theorem fileAndBitNumberOperand_eq_ok_iff (b : BitVec 3) (f : BitVec 5) (x : Operand) :
    fileAndBitNumberOperand b f = .ok x ↔ ∃ r, r.number = f ∧ x = .fileAndBitNumber r b := by
  simp only [← regfile_eq_ok_iff, fileAndBitNumberOperand]
  cases regfile f <;> simp [eq_comm]

theorem trisOperand_eq_ok_iff (f : BitVec 3) (x : Operand) :
    trisOperand f = .ok x ↔ (f = 6#3 ∧ x = .tris .GPIO) ∨ (f = 7#3 ∧ x = .tris .CMCON0) := by
  by_cases h6 : f = 6#3
  · simp [trisOperand, h6, eq_comm]
  · by_cases h7 : f = 7#3
    · simp [trisOperand, h7, eq_comm]
    · simp [trisOperand, h6, h7]

/-- Each destination is the one that some bit selects (rule R110). -/
theorem exists_destinationOf_eq (dest : Destination) : ∃ d, destinationOf d = dest :=
  match dest with
  | .working => ⟨0#1, rfl⟩
  | .file => ⟨1#1, rfl⟩

/-! ### An encoding is its fields side by side (rules R115, R116) -/

section Encodings
variable (r : RegisterFile)

theorem codecEncode_fileAndBitNumber (b : BitVec 3) :
    codecEncode (.fileAndBitNumber r b) = (b ++ r.number).setWidth 12 :=
  BitVec.setWidth_append_eq_shiftLeft_setWidth_or.symm

theorem codecEncode_fileAndDestination (d : BitVec 1) :
    codecEncode (.fileAndDestination r (destinationOf d)) = (d ++ r.number).setWidth 12 := by
  rw [BitVec.setWidth_append_eq_shiftLeft_setWidth_or]
  obtain rfl | rfl : d = 0#1 ∨ d = 1#1 := by revert d; decide
  · exact BitVec.zero_or.symm
  · rfl

theorem toNat_codecEncode_file : (codecEncode (.file r)).toNat = r.number.toNat :=
  BitVec.toNat_setWidth_of_le (by decide)

theorem toNat_codecEncode_fileAndDestination (d : BitVec 1) :
    (codecEncode (.fileAndDestination r (destinationOf d))).toNat = d.toNat * 2 ^ 5 + r.number.toNat := by
  rw [codecEncode_fileAndDestination, BitVec.toNat_setWidth_of_le (by decide), toNat_append_eq_mul_add]

theorem toNat_codecEncode_fileAndBitNumber (b : BitVec 3) :
    (codecEncode (.fileAndBitNumber r b)).toNat = b.toNat * 2 ^ 5 + r.number.toNat := by
  rw [codecEncode_fileAndBitNumber, BitVec.toNat_setWidth_of_le (by decide), toNat_append_eq_mul_add]

theorem toNat_codecEncode_literal (k : BitVec 8) : (codecEncode (.literal k)).toNat = k.toNat :=
  BitVec.toNat_setWidth_of_le (by decide)

theorem toNat_codecEncode_goto (a : BitVec 9) : (codecEncode (.goto a)).toNat = a.toNat :=
  BitVec.toNat_setWidth_of_le (by decide)

end Encodings

/-! ### The obligations -/

/-- What a codec decodes to encodes to the bits of the field that it was read from. -/
theorem toNat_codecEncode_of_codecDecode {tag : OperandShape} {ob : Word12} {x : Operand}
    (h : codecDecode tag ob = .ok x) : (codecEncode x).toNat = ob.toNat % 2 ^ shapeWidth tag := by
  cases tag with
  | noOperands =>
    cases h
    exact (Nat.mod_one _).symm
  | file =>
    obtain ⟨r, hr, rfl⟩ := (fileOperand_eq_ok_iff _ _).1 h
    rw [toNat_codecEncode_file, hr, registerField_toNat, shapeWidth]
  | fileAndDestination =>
    obtain ⟨r, hr, rfl⟩ := (fileAndDestinationOperand_eq_ok_iff _ _ _).1 h
    rw [toNat_codecEncode_fileAndDestination, hr, registerField_toNat, destinationField_toNat, shapeWidth]
    omega
  | fileAndBitNumber =>
    obtain ⟨r, hr, rfl⟩ := (fileAndBitNumberOperand_eq_ok_iff _ _ _).1 h
    rw [toNat_codecEncode_fileAndBitNumber, hr, registerField_toNat, bitIndexField_toNat, shapeWidth]
    omega
  | literal =>
    cases h
    rw [toNat_codecEncode_literal, literalField_toNat, shapeWidth]
  | goto =>
    cases h
    rw [toNat_codecEncode_goto, addressField_toNat, shapeWidth]
  | tris =>
    rw [shapeWidth, ← selectorField_toNat]
    obtain ⟨hs, rfl⟩ | ⟨hs, rfl⟩ := (trisOperand_eq_ok_iff _ _).1 h
    · rw [hs]
      rfl
    · rw [hs]
      rfl

/-- Settles O22: the encoding is the field, and a value with nothing above the field is the field. -/
theorem codecEncodesWhatItDecoded : Obligations.CodecEncodesWhatItDecoded := by
  intro tag ob x hfield h
  apply BitVec.eq_of_toNat_eq
  rw [toNat_codecEncode_of_codecDecode h, Nat.mod_eq_of_lt hfield]

/-- Settles O21: each field of an encoding is the value that was put there. -/
theorem codecDecodesItsEncoding : Obligations.CodecDecodesItsEncoding := by
  intro x
  cases x with
  | noOperands => rfl
  | file r =>
    refine (fileOperand_eq_ok_iff _ _).2 ⟨r, BitVec.eq_of_toNat_eq ?_, rfl⟩
    rw [registerField_toNat, toNat_codecEncode_file]
    omega
  | fileAndDestination r dest =>
    obtain ⟨d, rfl⟩ := exists_destinationOf_eq dest
    have hd : destinationField (codecEncode (.fileAndDestination r (destinationOf d))) = d := BitVec.eq_of_toNat_eq (by
      rw [destinationField_toNat, toNat_codecEncode_fileAndDestination]
      omega)
    refine (fileAndDestinationOperand_eq_ok_iff _ _ _).2 ⟨r, BitVec.eq_of_toNat_eq ?_, by rw [hd]⟩
    rw [registerField_toNat, toNat_codecEncode_fileAndDestination]
    omega
  | fileAndBitNumber r b =>
    have hb : bitIndexField (codecEncode (.fileAndBitNumber r b)) = b := BitVec.eq_of_toNat_eq (by
      rw [bitIndexField_toNat, toNat_codecEncode_fileAndBitNumber]
      omega)
    refine (fileAndBitNumberOperand_eq_ok_iff _ _ _).2 ⟨r, BitVec.eq_of_toNat_eq ?_, by rw [hb]⟩
    rw [registerField_toNat, toNat_codecEncode_fileAndBitNumber]
    omega
  | literal k =>
    refine congrArg (Except.ok ∘ Operand.literal) (BitVec.eq_of_toNat_eq ?_)
    rw [literalField_toNat, toNat_codecEncode_literal]
    omega
  | goto a =>
    refine congrArg (Except.ok ∘ Operand.goto) (BitVec.eq_of_toNat_eq ?_)
    rw [addressField_toNat, toNat_codecEncode_goto]
    omega
  | tris selector =>
    cases selector with
    | GPIO => rfl
    | CMCON0 => rfl

/-- Values that agree in the field agree with one value that has nothing above it, and so with each other. -/
theorem codecDecode_congr {tag : OperandShape} {ob ob' : Word12}
    (h : ob.toNat % 2 ^ shapeWidth tag = ob'.toNat % 2 ^ shapeWidth tag) :
    codecDecode tag ob = codecDecode tag ob' := by
  have hfield : (BitVec.ofNat 12 (ob.toNat % 2 ^ shapeWidth tag)).toNat = ob.toNat % 2 ^ shapeWidth tag :=
    Nat.mod_eq_of_lt ((Nat.mod_le _ _).trans_lt ob.isLt)
  exact (codecDecode_eq_of_mod hfield).symm.trans (codecDecode_eq_of_mod (hfield.trans h))

/-- Settles O23: a codec reads its field alone, and its errors carry an illegal register or selector. -/
theorem codecReadsItsFieldAlone : Obligations.CodecReadsItsFieldAlone := by
  refine fun tag ob => ⟨fun ob' => codecDecode_congr, fun e h => ?_⟩
  obtain ⟨x, hx, -⟩ | ⟨hillegal, hx⟩ | ⟨-, hillegal, hx⟩ := codecDecode_cases tag ob
  all_goals cases hx.symm.trans h
  · exact .inl ⟨registerField ob, rfl, (registerLegal_eq_false_iff _).1 hillegal⟩
  · exact .inr ⟨selectorField ob, rfl, by simpa [selectorLegal] using hillegal⟩

end Sys2Proof.Machine
end

section
/-! The decoder on its 16-bit word (O24), on the words of the source document (O5), and encodeInstr as its inverse (O3). -/

namespace Sys2Proof.Machine

/-- Settles O24: clearing bits 15 to 12 leaves the significant bits, which are all that `decode` reads of the word. -/
theorem highBitsAreIgnored : Obligations.HighBitsAreIgnored := by
  intro table word
  have hbits : significantBits (word &&& 0x0FFF#16) = significantBits word := by
    apply BitVec.eq_of_toNat_eq
    simp only [significantBits, BitVec.extractLsb'_toNat, BitVec.toNat_and, Nat.shiftRight_zero]
    change (word.toNat &&& (2 ^ 12 - 1)) % 2 ^ 12 = _
    rw [Nat.and_two_pow_sub_one_eq_mod, Nat.mod_mod]
  rw [decodeIn, decodeIn, hbits]

/-- Settles O5: the decoder run on each of the seven words. -/
theorem sourceExamplesDecode : Obligations.SourceExamplesDecode :=
  ⟨rfl, rfl, rfl, rfl, rfl, rfl, rfl⟩

/-! ### Re-encoding -/

@[simp] theorem significantBits_setWidth (w : Word12) : significantBits (w.setWidth 16) = w := by
  apply BitVec.eq_of_toNat_eq
  have := w.isLt
  simp only [significantBits, BitVec.extractLsb'_toNat, BitVec.toNat_setWidth, Nat.shiftRight_zero]
  omega

/-- A word decodes to an instruction exactly when it matches the instruction's entry and the codec of the entry's shape
makes the operand of it. -/
theorem decode_eq_ok_iff (word : Word16) (i : Instruction) : decode word = .ok i ↔
    matchId (significantBits word) = some i.opcode ∧
      codecDecode (opcodeBitPattern i.opcode).operandShape (significantBits word) = .ok i.operands := by
  obtain ⟨opcode, operands⟩ := i
  cases hm : matchId (significantBits word) with
  | none => simp [(decode_eq_unknownOpcode_iff word _).2 ⟨rfl, hm⟩]
  | some id =>
    rw [decode_of_matchId hm, Option.some_inj]
    constructor
    · intro h
      cases hc : codecDecode (opcodeBitPattern id).operandShape (significantBits word) with
      | error e => simp [hc, Except.map] at h
      | ok x =>
        rw [hc] at h
        cases h
        exact ⟨rfl, hc⟩
    · rintro ⟨rfl, hc⟩
      rw [hc]
      rfl

/-- A decoded instruction's operand has the shape of its opcode (rule R24). -/
theorem operandShape_of_decode {word : Word16} {i : Instruction} (h : decode word = .ok i) :
    (opcodeBitPattern i.opcode).operandShape = operandShapeOf i.operands := by
  have hwf := replyWf_decode word
  rw [h] at hwf
  exact eq_of_beq hwf

/-- An operand's encoding stands in the field of the operand's shape (rule R116). -/
theorem toNat_codecEncode_lt (x : Operand) : (codecEncode x).toNat < 2 ^ shapeWidth (operandShapeOf x) := by
  rw [toNat_codecEncode_of_codecDecode (codecDecodesItsEncoding x)]
  exact Nat.mod_lt _ (Nat.two_pow_pos _)

theorem toNat_matchValue (id : OpcodeId) :
    (opcodeBitPattern id).opcode.toNat = entryBlock id * 2 ^ entryWidth id := by
  cases id <;> rfl

section
variable {i : Instruction} (hshape : (opcodeBitPattern i.opcode).operandShape = operandShapeOf i.operands)
include hshape

theorem toNat_codecEncode_lt_entryWidth : (codecEncode i.operands).toNat < 2 ^ entryWidth i.opcode := by
  rw [entryWidth, hshape]
  exact toNat_codecEncode_lt i.operands

/-- The encoding is the word of the entry's block at the place that the operand's encoding gives: the two share no bit. -/
theorem toNat_encodeInstr : (encodeInstr i).toNat =
    entryBlock i.opcode * 2 ^ entryWidth i.opcode + (codecEncode i.operands).toNat := by
  rw [encodeInstr, entryOf, BitVec.toNat_or, toNat_matchValue, ← Nat.shiftLeft_eq,
    Nat.shiftLeft_add_eq_or_of_lt (toNat_codecEncode_lt_entryWidth hshape)]

theorem accepts_encodeInstr : accepts (opcodeBitPattern i.opcode) (encodeInstr i) = true := by
  rw [accepts_iff, toNat_encodeInstr hshape, Nat.mul_comm, Nat.mul_add_div (Nat.two_pow_pos _),
    Nat.div_eq_of_lt (toNat_codecEncode_lt_entryWidth hshape), Nat.add_zero]

/-- The operand's encoding is what stands in the operand field of the instruction's encoding. -/
theorem toNat_encodeInstr_mod : (encodeInstr i).toNat % 2 ^ entryWidth i.opcode = (codecEncode i.operands).toNat := by
  rw [toNat_encodeInstr hshape, Nat.mul_add_mod_of_lt (toNat_codecEncode_lt_entryWidth hshape)]

theorem codecDecode_encodeInstr :
    codecDecode (opcodeBitPattern i.opcode).operandShape (encodeInstr i) = .ok i.operands := by
  have hfield : (codecEncode i.operands).toNat =
      (encodeInstr i).toNat % 2 ^ shapeWidth (opcodeBitPattern i.opcode).operandShape :=
    (toNat_encodeInstr_mod hshape).symm
  rw [← codecDecode_eq_of_mod hfield, hshape]
  exact codecDecodesItsEncoding i.operands

/-- The encoding matches the instruction's own entry; for tris there are two, which no other entry takes (rule R97). -/
theorem matchId_encodeInstr : matchId (encodeInstr i) = some i.opcode := by
  by_cases ht : i.opcode = .tris
  · obtain ⟨opcode, operands⟩ := i
    obtain rfl : opcode = .tris := ht
    obtain ⟨selector, rfl⟩ : ∃ selector, operands = .tris selector := by
      cases operands with
      | tris selector => exact ⟨selector, rfl⟩
      | _ => cases hshape
    cases selector with
    | GPIO => decide
    | CMCON0 => decide
  · exact matchId_of_accepts (accepts_encodeInstr hshape) ht

end

/-- What decodes encodes back: the entry's block and the operand field are all of the word. -/
theorem encodeInstr_of_decode {word : Word16} {i : Instruction} (h : decode word = .ok i) :
    encodeInstr i = significantBits word := by
  obtain ⟨hmatch, hcodec⟩ := (decode_eq_ok_iff word i).1 h
  apply BitVec.eq_of_toNat_eq
  calc (encodeInstr i).toNat
    _ = entryBlock i.opcode * 2 ^ entryWidth i.opcode + (codecEncode i.operands).toNat :=
        toNat_encodeInstr (operandShape_of_decode h)
    _ = (significantBits word).toNat / 2 ^ entryWidth i.opcode * 2 ^ entryWidth i.opcode +
          (significantBits word).toNat % 2 ^ entryWidth i.opcode := by
        rw [(accepts_iff _ _).1 (accepts_of_matchId hmatch), toNat_codecEncode_of_codecDecode hcodec]
        rfl
    _ = (significantBits word).toNat := Nat.div_add_mod' _ _

/-- Settles O3: a decoded word is its entry's block and its operand field, and an encoding matches its own entry, whose
codec reads the operand back. -/
theorem reencodingInvertsDecode : Obligations.ReencodingInvertsDecode := by
  refine ⟨fun word i => encodeInstr_of_decode, fun i hshape => (decode_eq_ok_iff _ i).2 ?_⟩
  rw [significantBits_setWidth]
  exact ⟨matchId_encodeInstr hshape, codecDecode_encodeInstr hshape⟩

end Sys2Proof.Machine
end

section
/-! What a step does: a direct call returns what `decode` gives (O35), by running the decoded instruction (O34), and every
step answers (O54). -/

namespace Sys2Proof.Machine

/-! ### A direct call -/

theorem step_of_directCall {s : State} (h : directCall s) : step s = stepBlock s := by
  unfold step
  cases ha : s.assembler with
  | idle => rfl
  | running run => exact absurd ha (h run)
  | returned result => rfl

/-- Settles O35: a direct call is a call of the block, which returns `decode` of its word. -/
theorem stepReturnsWhatDecodeGives : Obligations.StepReturnsWhatDecodeGives := by
  intro s hs
  rw [step_of_directCall hs, stepBlock_eq_returns_decode]
  rfl

/-! ### The instruction that a call runs -/

theorem stepBlock_of_decodeInstr_ok {s : State} {i : Instr} (h : decodeInstr s.wordI = .ok i) :
    stepBlock s = exec i s := by
  rw [decodeInstr] at h
  simp only [stepBlock, stepBlockWith, h]

theorem stepBlock_of_decodeInstr_error {s : State} {e : DecodeError} (h : decodeInstr s.wordI = .error e) :
    stepBlock s = .next (s.afterCall (.error e)) := by
  rw [decodeInstr] at h
  simp only [stepBlock, stepBlockWith, h]
  rfl

/-- The one error before the codecs is UnknownOpcode of the low 12 bits (rule R128). -/
theorem eq_unknownOpcode_of_decodeInstr {word : Word16} {e : DecodeError} (h : decodeInstr word = .error e) :
    e = .unknownOpcode (significantBits word) := by
  rw [decodeInstr_eq_matchId] at h
  cases hm : matchId (significantBits word) with
  | none =>
    rw [hm] at h
    cases h
    rfl
  | some id =>
    rw [hm] at h
    cases h

/-- A queued word in the program space is presented to the block, and the value returned is collected (rule R185). -/
theorem stepAssembler_of_queued {run : AssemblerRun} {address : Nat} {word : Word16} {later : List (Nat × Word16)}
    {s t : State} (hwords : run.words = (address, word) :: later) (haddress : address ≤ lastProgramAddress)
    (hcall : stepBlock (s.presents word) = .next t) :
    stepAssembler run s = .next (collectStatement run address later t) := by
  obtain ⟨hw, -⟩ | ⟨_, _, _, hw, hlast, -⟩ | ⟨_, _, _, reply, hw, -, hb, hn⟩ := stepAssembler_cases run s
  all_goals cases hwords.symm.trans hw
  · exact absurd haddress (Nat.not_le_of_lt hlast)
  · cases hb.symm.trans hcall
    exact hn

/-- Settles O34: a step is a call of the block, direct or on a queued word, and the call runs the instruction found. -/
theorem stepRunsTheDecodedInstruction : Obligations.StepRunsTheDecodedInstruction := by
  refine ⟨fun s i hs hi => ?_, fun s e hs he => ?_, fun s t run address word later i ha hw haddress hi ht => ?_⟩
  · exact (step_of_directCall hs).trans (stepBlock_of_decodeInstr_ok hi)
  · exact ⟨eq_unknownOpcode_of_decodeInstr he, (step_of_directCall hs).trans (stepBlock_of_decodeInstr_error he)⟩
  · have hcall : stepBlock (s.presents word) = .next t := (stepBlock_of_decodeInstr_ok hi).trans ht
    have hstep : step s = stepAssembler run s := by simp only [step, ha]
    rw [hstep, stepAssembler_of_queued hw haddress hcall]

/-! ### Every step answers -/

theorem stepAssembler_next (run : AssemblerRun) (s : State) : ∃ t, stepAssembler run s = .next t := by
  obtain ⟨-, h⟩ | ⟨_, _, _, -, -, h⟩ | ⟨_, _, _, _, -, -, -, h⟩ := stepAssembler_cases run s
  all_goals exact ⟨_, h⟩

/-- Settles O54: a call of the block returns a value, and an action of the environment gives a next state. -/
theorem everyStepAnswers : Obligations.EveryStepAnswers := by
  intro s
  unfold step
  cases s.assembler with
  | idle => exact ⟨_, stepBlock_eq_returns_decode s⟩
  | running run => exact stepAssembler_next run s
  | returned result => exact ⟨_, stepBlock_eq_returns_decode s⟩

end Sys2Proof.Machine
end

section
/-! The output ports carry the result of `decode` (O37), and what they show for each error (O38). -/

namespace Sys2Proof.Machine

/-! ### What the ports show, by the result and by the matched entry -/

section
variable {word : Word16}

theorem statusPort_of_ok {i : Instruction} (h : decode word = .ok i) : statusPort word = 0#2 := by
  simp only [statusPort, h]

theorem statusPort_of_error {e : DecodeError} (h : decode word = .error e) :
    statusPort word = BitVec.ofNat 2 (decodeErrorCode e) := by
  simp only [statusPort, h]

theorem errvalPort_of_error (n : Nat) {e : DecodeError} (h : decode word = .error e) :
    errvalPort n word = errorValue e := by
  simp only [errvalPort, h]

theorem decodedOperand_of_ok {i : Instruction} (h : decode word = .ok i) : decodedOperand word = some i.operands := by
  simp only [decodedOperand, h]

theorem opcodePort_of_matchId (n : Nat) {id : OpcodeId} (h : matchId (significantBits word) = some id) :
    opcodePort n word = BitVec.ofNat 6 (opcodeIndex id) := by
  simp only [opcodePort, matchOpcode_eq_map, h, Option.map_some, entryOf]

theorem shapePort_of_matchId (n : Nat) {id : OpcodeId} (h : matchId (significantBits word) = some id) :
    shapePort n word = shapeCode (opcodeBitPattern id).operandShape := by
  simp only [shapePort, matchOpcode_eq_map, h, Option.map_some, entryOf]

end

/-- The 33 indices fit `opcode_o`. -/
theorem toNat_opcodeIndex (id : OpcodeId) : (BitVec.ofNat 6 (opcodeIndex id)).toNat = opcodeIndex id := by
  have hlt : opcodeIndex id < declarationOrder.length := List.idxOf_lt_length_of_mem (mem_declarationOrder id)
  exact Nat.mod_eq_of_lt (hlt.trans (by decide))

theorem opcodeOfIndex_opcodeIndex (id : OpcodeId) : opcodeOfIndex (BitVec.ofNat 6 (opcodeIndex id)) = some id := by
  rw [opcodeOfIndex, toNat_opcodeIndex]
  exact List.getElem?_idxOf (mem_declarationOrder id)

/-- The status code tells a success from the three errors. -/
theorem decodeErrorCode_ne_zero (e : DecodeError) : BitVec.ofNat 2 (decodeErrorCode e) ≠ 0#2 := by
  cases e <;> simp [decodeErrorCode]

/-! ### Reading the result back -/

/-- The operand of a word that decodes is read back from the outputs valid for its shape. -/
theorem operandOfPorts_of_ok (n : Nat) {word : Word16} {i : Instruction} (h : decode word = .ok i) :
    operandOfPorts (portsOf n word) = some i.operands := by
  have hshape : shapePort n word = shapeCode (operandShapeOf i.operands) := by
    rw [← operandShape_of_decode h]
    exact shapePort_of_matchId n ((decode_eq_ok_iff word i).1 h).1
  have hoperand := decodedOperand_of_ok h
  generalize i.operands = x at hshape hoperand
  simp only [operandOfPorts, portsOf, hshape]
  cases x with
  | noOperands => rfl
  | file r => simp [operandShapeOf, shapeCode, regPort, hoperand, r.legal]
  | fileAndDestination r d =>
    cases d
    all_goals simp [operandShapeOf, shapeCode, regPort, destPort, destinationOf, hoperand, r.legal]
  | fileAndBitNumber r b => simp [operandShapeOf, shapeCode, regPort, bitPort, hoperand, r.legal]
  | literal k => simp [operandShapeOf, shapeCode, literalPort, hoperand]
  | goto a => simp [operandShapeOf, shapeCode, addressPort, hoperand]
  | tris selector =>
    cases selector
    all_goals simp [operandShapeOf, shapeCode, trisPort, hoperand]

theorem resultOfPorts_of_ok (n : Nat) {word : Word16} {i : Instruction} (h : decode word = .ok i) :
    resultOfPorts (portsOf n word) = some (.ok i) := by
  have hstatus : (portsOf n word).statusO = 0#2 := statusPort_of_ok h
  have hopcode : opcodeOfIndex (portsOf n word).opcodeO = some i.opcode := by
    rw [portsOf, opcodePort_of_matchId n ((decode_eq_ok_iff word i).1 h).1, opcodeOfIndex_opcodeIndex]
  simp [resultOfPorts, hstatus, hopcode, operandOfPorts_of_ok n h]

theorem resultOfPorts_of_error (n : Nat) {word : Word16} {e : DecodeError} (h : decode word = .error e) :
    resultOfPorts (portsOf n word) = some (.error e) := by
  have hstatus : (portsOf n word).statusO = BitVec.ofNat 2 (decodeErrorCode e) := statusPort_of_error h
  have herrval : (portsOf n word).errvalO = errorValue e := errvalPort_of_error n h
  cases e with
  | unknownOpcode value => simp [resultOfPorts, hstatus, herrval, decodeErrorCode, errorValue]
  | invalidRegister number =>
    simp [resultOfPorts, hstatus, herrval, decodeErrorCode, errorValue, BitVec.extractLsb'_setWidth_of_le]
  | invalidTrisSelector selector =>
    simp [resultOfPorts, hstatus, herrval, decodeErrorCode, errorValue, BitVec.extractLsb'_setWidth_of_le]

/-- Settles O37: an instruction is read from the outputs of the success case, an error from `status_o` and `errval_o`. -/
theorem portsCarryTheResult : Obligations.PortsCarryTheResult := by
  intro s
  cases h : decode s.wordI with
  | ok i => exact resultOfPorts_of_ok s.freeIndex h
  | error e => exact resultOfPorts_of_error s.freeIndex h

/-! ### The ports of the error cases -/

theorem statusPort_eq_zero_iff (word : Word16) : statusPort word = 0#2 ↔ ∃ i, decode word = .ok i := by
  cases h : decode word with
  | ok i => simp [statusPort_of_ok h]
  | error e => simp [statusPort_of_error h, decodeErrorCode_ne_zero e]

/-- `status_o` is 1 where no entry matches, so any other status has a matched entry. -/
theorem exists_matchId_of_statusPort {word : Word16} (h : statusPort word ≠ 1#2) :
    ∃ id, matchId (significantBits word) = some id := by
  cases hm : matchId (significantBits word) with
  | some id => exact ⟨id, rfl⟩
  | none => exact absurd (statusPort_of_error ((decode_eq_unknownOpcode_iff word _).2 ⟨rfl, hm⟩)) h

/-- Settles O38: the ports of an error are its code and its payload, and those of the entry follow the matcher. -/
theorem portsOfErrors : Obligations.PortsOfErrors := by
  refine fun s => ⟨statusPort_eq_zero_iff s.wordI, fun v h => ?_, fun n h => ?_, fun n h => ?_, fun h => ?_⟩
  · refine ⟨statusPort_of_error h, (errvalPort_of_error s.freeIndex h).trans ?_⟩
    exact ((decode_eq_unknownOpcode_iff s.wordI v).1 h).1
  · refine ⟨statusPort_of_error h, (congrArg BitVec.toNat (errvalPort_of_error s.freeIndex h)).trans ?_⟩
    exact BitVec.toNat_setWidth_of_le (by decide)
  · refine ⟨statusPort_of_error h, (congrArg BitVec.toNat (errvalPort_of_error s.freeIndex h)).trans ?_⟩
    exact BitVec.toNat_setWidth_of_le (by decide)
  · obtain ⟨id, hid⟩ := exists_matchId_of_statusPort h
    refine ⟨entryOf id, (matchOpcode_eq_map _).trans (congrArg _ hid), ?_, shapePort_of_matchId s.freeIndex hid⟩
    exact (congrArg BitVec.toNat (opcodePort_of_matchId s.freeIndex hid)).trans (toNat_opcodeIndex id)

end Sys2Proof.Machine
end

section
/-! What the byte-oriented instructions and those without operands answer, each with its whole next state (O39, O40,
O41). -/

namespace Sys2Proof.Machine

/-- A meaning whose operand is accepted returns it with the identity and changes nothing else (rule R132). -/
theorem answers_of_ok {x : Except DecodeError Operand} {o : Operand} (h : x = .ok o) (s : State) (id : OpcodeId) :
    s.answers id x = .next (s.afterCall (.ok ⟨id, o⟩)) := by
  rw [h]
  rfl

theorem fileOperand_of_register (r : RegisterFile) : fileOperand r.number = .ok (.file r) :=
  (fileOperand_eq_ok_iff r.number _).2 ⟨r, rfl, rfl⟩

theorem fileAndDestinationOperand_of_register (d : BitVec 1) (r : RegisterFile) :
    fileAndDestinationOperand d r.number = .ok (.fileAndDestination r (destinationOf d)) :=
  (fileAndDestinationOperand_eq_ok_iff d r.number _).2 ⟨r, rfl, rfl⟩

/-- Settles O39: each of the fourteen meanings answers with the operand of a legal register and the destination bit. -/
theorem fileAndDestinationMeanings : Obligations.FileAndDestinationMeanings := by
  intro s d r
  have hdest := answers_of_ok (fileAndDestinationOperand_of_register d r) s
  simp only [List.forall_mem_cons]
  exact ⟨hdest .addwf, hdest .andwf, hdest .comf, hdest .decf, hdest .decfsz, hdest .incf, hdest .incfsz, hdest .iorwf,
    hdest .movf, hdest .rlf, hdest .rrf, hdest .subwf, hdest .swapf, hdest .xorwf, List.forall_mem_nil _⟩

/-- Settles O40: both meanings answer with the operand of a legal register. -/
theorem fileMeanings : Obligations.FileMeanings := by
  intro s r
  have hfile := answers_of_ok (fileOperand_of_register r) s
  exact ⟨hfile .clrf, hfile .movwf⟩

/-- Settles O41: the five meanings answer with the operand that needs no field, which no check refuses. -/
theorem noOperandMeanings : Obligations.NoOperandMeanings := by
  intro s
  have hnone := answers_of_ok (rfl : Except.ok Operand.noOperands = .ok .noOperands) s
  exact ⟨hnone .clrw, hnone .nop, hnone .clrwdt, hnone .option, hnone .sleep⟩

end Sys2Proof.Machine
end

section
/-! The words of the opcodes with a register field (O26, O27) and of clrw (O30). The opcode field of a word is the number
of its block, so it decides the matching entry; the register check decides between the operand and the error. -/

namespace Sys2Proof.Machine

/-! ### The fields of a word -/

/-- The fields below bit 12 are those of the significant bits (rule R127). -/
theorem extractLsb'_significantBits (word : Word16) {start len : Nat} (h : start + len ≤ 12) :
    (significantBits word).extractLsb' start len = word.extractLsb' start len := by
  ext i hi
  have hlow : start + i < 12 := by omega
  simp [significantBits, hlow]

/-- An entry other than tris is the match of every word whose bits above the operand field are the entry's opcode
field. -/
theorem matchId_of_opcodeField {word : Word16} {id : OpcodeId} {tag : OperandShape} {m : Nat} {field : BitVec m}
    (hshape : (opcodeBitPattern id).operandShape = tag) (htag : tag ≠ .tris) (hm : shapeWidth tag + m = 12)
    (hblock : entryBlock id = field.toNat) (h : word.extractLsb' (shapeWidth tag) m = field) :
    matchId (significantBits word) = some id := by
  subst hshape
  have hid : id ≠ .tris := fun hid => htag (hid ▸ rfl)
  have hlt : (significantBits word).toNat / 2 ^ entryWidth id < 2 ^ m := by
    apply Nat.div_lt_of_lt_mul
    rw [← pow_add, entryWidth, hm]
    exact (significantBits word).isLt
  refine matchId_of_accepts ((accepts_iff id _).2 ?_) hid
  rw [hblock, ← h, ← extractLsb'_significantBits word hm.le, BitVec.extractLsb'_toNat, Nat.shiftRight_eq_div_pow]
  exact (Nat.mod_eq_of_lt hlt).symm

/-! ### What the codecs make of a word's register -/

theorem codecDecode_file_significantBits (word : Word16) :
    codecDecode .file (significantBits word) = (regfile (word.extractLsb' 0 5)).map .file := by
  rw [← registerField_significantBits, codecDecode, fileDecode, fileOperand]
  cases regfile (registerField (significantBits word)) <;> rfl

theorem codecDecode_fileAndDestination_significantBits (word : Word16) :
    codecDecode .fileAndDestination (significantBits word) =
      (regfile (word.extractLsb' 0 5)).map (.fileAndDestination · (destinationOf (word.extractLsb' 5 1))) := by
  rw [← registerField_significantBits, ← extractLsb'_significantBits word (by decide : 5 + 1 ≤ 12), codecDecode,
    fileAndDestinationDecode, fileAndDestinationOperand]
  cases regfile (registerField (significantBits word)) <;> rfl

theorem codecDecode_fileAndBitNumber_significantBits (word : Word16) :
    codecDecode .fileAndBitNumber (significantBits word) =
      (regfile (word.extractLsb' 0 5)).map (.fileAndBitNumber · (word.extractLsb' 5 3)) := by
  rw [← registerField_significantBits, ← extractLsb'_significantBits word (by decide : 5 + 3 ≤ 12), codecDecode,
    fileAndBitNumberDecode, fileAndBitNumberOperand]
  cases regfile (registerField (significantBits word)) <;> rfl

/-! ### The words of an entry with a register field -/

/-- A word of an entry whose codec checks the register of bits 4:0 decodes to the operand of a legal register, and fails
on the numbers 8 to 15 (rules R107, R130 to R132). -/
theorem decode_of_registerCodec {word : Word16} {id : OpcodeId} {tag : OperandShape} {operandOf : RegisterFile → Operand}
    (hm : matchId (significantBits word) = some id) (hshape : (opcodeBitPattern id).operandShape = tag)
    (hcodec : codecDecode tag (significantBits word) = (regfile (word.extractLsb' 0 5)).map operandOf) :
    (∀ r : RegisterFile, r.number = word.extractLsb' 0 5 → decode word = .ok ⟨id, operandOf r⟩) ∧
    (8 ≤ (word.extractLsb' 0 5).toNat → (word.extractLsb' 0 5).toNat ≤ 15 →
      decode word = .error (.invalidRegister (word.extractLsb' 0 5))) := by
  rw [decode_of_matchId hm, hshape, hcodec]
  refine ⟨fun r hr => ?_, fun hlo hhi => ?_⟩
  · rw [← hr, regfile_of_register]
    rfl
  · rw [regfile_of_illegal ((registerLegal_eq_false_iff _).2 ⟨hlo, hhi⟩)]
    rfl

/-- Settles O26: the fourteen opcode fields are those of the table's rows with the FileAndDestination shape. -/
theorem fileAndDestinationWords : Obligations.FileAndDestinationWords := by
  intro word p hp h
  obtain ⟨hshape, hblock⟩ : (opcodeBitPattern p.1).operandShape = .fileAndDestination ∧ entryBlock p.1 = p.2.toNat := by
    clear h
    revert p
    decide
  exact decode_of_registerCodec (matchId_of_opcodeField hshape (by decide) rfl hblock h) hshape
    (codecDecode_fileAndDestination_significantBits word)

/-- Settles O27: the opcode fields are those of the table's rows with the File and the FileAndBitNumber shape. -/
theorem fileAndBitNumberWords : Obligations.FileAndBitNumberWords := by
  refine fun word => ⟨fun p hp h => ?_, fun p hp h => ?_⟩
  · obtain ⟨hshape, hblock⟩ : (opcodeBitPattern p.1).operandShape = .file ∧ entryBlock p.1 = p.2.toNat := by
      clear h
      revert p
      decide
    exact decode_of_registerCodec (matchId_of_opcodeField hshape (by decide) rfl hblock h) hshape
      (codecDecode_file_significantBits word)
  · obtain ⟨hshape, hblock⟩ : (opcodeBitPattern p.1).operandShape = .fileAndBitNumber ∧ entryBlock p.1 = p.2.toNat := by
      clear h
      revert p
      decide
    exact decode_of_registerCodec (matchId_of_opcodeField hshape (by decide) rfl hblock h) hshape
      (codecDecode_fileAndBitNumber_significantBits word)

/-! ### The words of clrw -/

/-- clrw has no operand field: it accepts its match value alone (rule R56). -/
theorem accepts_clrw_iff (w : Word12) : accepts (opcodeBitPattern .clrw) w = true ↔ w = 0x040#12 := by
  rw [accepts_iff, ← BitVec.toNat_inj]
  exact Eq.congr_left (Nat.div_one w.toNat)

/-- Settles O30: only clrw's match value matches clrw, and the words after it in its row are in the gap of O15. -/
theorem clrwIsOneWord : Obligations.ClrwIsOneWord := by
  refine ⟨fun word => ?_, fun word hlo hhi => (unmatchedWordsAreTwoRanges.2 word _).2 ⟨rfl, .inr ⟨hlo, hhi⟩⟩⟩
  rw [decode_eq_ok_iff]
  constructor
  · intro h
    exact ⟨matchId_of_accepts ((accepts_clrw_iff _).2 h) (by decide), rfl⟩
  · rintro ⟨hm, -⟩
    exact (accepts_clrw_iff _).1 (accepts_of_matchId hm)

end Sys2Proof.Machine
end

section
/-! What the bit-oriented instructions answer, each with its whole next state (O42). -/

namespace Sys2Proof.Machine

theorem fileAndBitNumberOperand_of_register (b : BitVec 3) (r : RegisterFile) :
    fileAndBitNumberOperand b r.number = .ok (.fileAndBitNumber r b) :=
  (fileAndBitNumberOperand_eq_ok_iff b r.number _).2 ⟨r, rfl, rfl⟩

/-- Settles O42: each of the four meanings answers with the operand of a legal register and the bit index. -/
theorem fileAndBitNumberMeanings : Obligations.FileAndBitNumberMeanings := by
  intro s b r
  have hbit := answers_of_ok (fileAndBitNumberOperand_of_register b r) s
  simp only [List.forall_mem_cons]
  exact ⟨hbit .bcf, hbit .bsf, hbit .btfsc, hbit .btfss, List.forall_mem_nil _⟩

end Sys2Proof.Machine
end

section
/-! The words of the six Literal opcodes and of goto (O28). The opcode field decides the matching entry, and neither codec
refuses a value of its field. -/

namespace Sys2Proof.Machine

/-- The byte of a word is that of bits 7:0, and no byte is refused (rule R112). -/
theorem codecDecode_literal_significantBits (word : Word16) :
    codecDecode .literal (significantBits word) = .ok (.literal (word.extractLsb' 0 8)) := by
  rw [← extractLsb'_significantBits word (by decide : 0 + 8 ≤ 12)]
  rfl

/-- The address of a word is that of bits 8:0, and no address is refused (rule R113). -/
theorem codecDecode_goto_significantBits (word : Word16) :
    codecDecode .goto (significantBits word) = .ok (.goto (word.extractLsb' 0 9)) := by
  rw [← extractLsb'_significantBits word (by decide : 0 + 9 ≤ 12)]
  rfl

/-- A word whose operand the codec accepts decodes to it, with the identity of the entry that the word matches (rules R130,
R132). -/
theorem decode_of_acceptedOperand {word : Word16} {id : OpcodeId} {tag : OperandShape} {x : Operand}
    (hm : matchId (significantBits word) = some id) (hshape : (opcodeBitPattern id).operandShape = tag)
    (hcodec : codecDecode tag (significantBits word) = .ok x) : decode word = .ok ⟨id, x⟩ := by
  rw [decode_of_matchId hm, hshape, hcodec]
  rfl

/-- Settles O28: the opcode fields are those of the table's rows with the Literal and the Goto shape. -/
theorem literalAndGotoWords : Obligations.LiteralAndGotoWords := by
  refine fun word => ⟨fun p hp h => ?_, fun h => ?_⟩
  · obtain ⟨hshape, hblock⟩ : (opcodeBitPattern p.1).operandShape = .literal ∧ entryBlock p.1 = p.2.toNat := by
      clear h
      revert p
      decide
    exact decode_of_acceptedOperand (matchId_of_opcodeField hshape (by decide) rfl hblock h) hshape
      (codecDecode_literal_significantBits word)
  · have hshape : (opcodeBitPattern .goto).operandShape = .goto := rfl
    have hblock : entryBlock .goto = (0b101#3).toNat := rfl
    exact decode_of_acceptedOperand (matchId_of_opcodeField hshape (by decide) rfl hblock h) hshape
      (codecDecode_goto_significantBits word)

end Sys2Proof.Machine
end

section
/-! What the literal and control instructions with an operand answer, each with its whole next state (O43, O44). -/

namespace Sys2Proof.Machine

/-- Settles O43: each of the six meanings answers with its byte, which no check refuses. -/
theorem literalMeanings : Obligations.LiteralMeanings := by
  intro s k
  have hlit := answers_of_ok (rfl : Except.ok (Operand.literal k) = .ok (.literal k)) s
  simp only [List.forall_mem_cons]
  exact ⟨hlit .andlw, hlit .call, hlit .iorlw, hlit .movlw, hlit .retlw, hlit .xorlw, List.forall_mem_nil _⟩

/-- A selector other than 6 and 7 names no register (rule R114). -/
theorem trisOperand_of_illegal {n : BitVec 3} (h6 : n ≠ 6#3) (h7 : n ≠ 7#3) :
    trisOperand n = .error (.invalidTrisSelector n) := by
  rw [trisOperand, if_neg h6, if_neg h7]

/-- Settles O44: goto answers with its address, which no check refuses, and tris with what the selector check gives. -/
theorem gotoAndTrisMeanings : Obligations.GotoAndTrisMeanings := by
  refine fun s => ⟨fun k => answers_of_ok rfl s .goto, answers_of_ok rfl s .tris, answers_of_ok rfl s .tris,
    fun n h6 h7 => ?_⟩
  exact answers_of_error (trisOperand_of_illegal h6 h7) s .tris

end Sys2Proof.Machine
end

section
/-! The program assembler record by record: the structural checks in their order (O47), and the program as the
concatenation of what the records give (O49). -/

namespace Sys2Proof.Machine

/-! ### Opening a data record -/

/-- The one even byte address whose half is the configuration word's address (rules R180, R181). -/
theorem halved_eq_configAddress_iff {address : Word16} (heven : address.toNat % 2 = 0) :
    address.toNat / 2 = configAddress ↔ address = 0x1FFE#16 := by
  rw [← BitVec.toNat_inj, configAddress, BitVec.toNat_ofNat]
  omega

theorem openData_of_odd {address : Word16} (index : Nat) (bytes : List Byte) (hodd : address.toNat % 2 = 1) :
    openData index address bytes = .error (.unalignedAddress index address) := if_pos hodd

theorem openData_configWord (index : Nat) (low high : Byte) :
    openData index 0x1FFE#16 [low, high] = .ok ([.config (wordOfBytes low high)], []) := rfl

theorem openData_of_configLength {bytes : List Byte} (index : Nat) (hlength : bytes.length ≠ 2) :
    openData index 0x1FFE#16 bytes = .error (.badConfigWordLength index bytes.length) := by
  unfold openData
  rw [if_neg (by decide), if_pos (by decide)]
  split
  · exact absurd rfl hlength
  · rfl

/-- Away from the configuration word only the parity of the bytes is checked before the words (rule R183). -/
theorem openData_of_programAddress {address : Word16} (index : Nat) (bytes : List Byte)
    (heven : address.toNat % 2 = 0) (hconfig : address ≠ 0x1FFE#16) :
    openData index address bytes = if bytes.length % 2 = 1 then .error (.oddByteCount index bytes.length)
      else .ok ([], addressedWords (address.toNat / 2) bytes) := by
  unfold openData
  rw [if_neg (by omega), if_neg (mt (halved_eq_configAddress_iff heven).1 hconfig)]

/-! ### What one record gives -/

/-- The program of one record, or its error: what it emits when it is begun, then the statements of its words. -/
def recordProgram (index : Nat) (more : Bool) (record : InputRecord) : Except AssembleError Program :=
  (openRecord index more record).bind fun opened => (assembleWords index opened.2).map (opened.1 ++ ·)

/-- The records are taken in order, and the first error ends the call (rules R177, R189). -/
theorem assembleFrom_cons (index : Nat) (record : InputRecord) (rest : List InputRecord) :
    assembleFrom index (record :: rest) = (recordProgram index (!rest.isEmpty) record).bind fun p =>
      (assembleFrom (index + 1) rest).map (p ++ ·) := by
  simp only [assembleFrom, recordProgram]
  cases openRecord index (!rest.isEmpty) record with
  | error e => rfl
  | ok opened =>
    simp only [Except.bind]
    cases assembleWords index opened.2 with
    | error e => rfl
    | ok statements =>
      cases assembleFrom (index + 1) rest <;> rfl

theorem assembleFrom_cons_of_error {index : Nat} {record : InputRecord} {rest : List InputRecord} {e : AssembleError}
    (h : recordProgram index (!rest.isEmpty) record = .error e) : assembleFrom index (record :: rest) = .error e := by
  rw [assembleFrom_cons, h]
  rfl

theorem assembleFrom_cons_of_ok {index : Nat} {record : InputRecord} {rest : List InputRecord} {p : Program}
    (h : recordProgram index (!rest.isEmpty) record = .ok p) :
    assembleFrom index (record :: rest) = (assembleFrom (index + 1) rest).map (p ++ ·) := by
  rw [assembleFrom_cons, h]
  rfl

/-- A record that gives nothing leaves the result to the records after it. -/
theorem assembleFrom_cons_of_nil {index : Nat} {record : InputRecord} {rest : List InputRecord}
    (h : recordProgram index (!rest.isEmpty) record = .ok []) :
    assembleFrom index (record :: rest) = assembleFrom (index + 1) rest := by
  rw [assembleFrom_cons_of_ok h]
  exact congrFun Except.map_id _

theorem recordProgram_of_openRecord_error {index : Nat} {more : Bool} {record : InputRecord} {e : AssembleError}
    (h : openRecord index more record = .error e) : recordProgram index more record = .error e := by
  rw [recordProgram, h]
  rfl

theorem recordProgram_of_openData_error {index : Nat} {address : Word16} {bytes : List Byte} {e : AssembleError}
    (more : Bool) (h : openData index address bytes = .error e) :
    recordProgram index more (.data address bytes) = .error e := recordProgram_of_openRecord_error h

/-- The program of a data record at a program address is that of its words. -/
theorem recordProgram_data {address : Word16} {bytes : List Byte} (index : Nat) (more : Bool)
    (heven : address.toNat % 2 = 0) (hconfig : address ≠ 0x1FFE#16) (hlength : bytes.length % 2 = 0) :
    recordProgram index more (.data address bytes) = assembleWords index (addressedWords (address.toNat / 2) bytes) := by
  rw [recordProgram, openRecord, openData_of_programAddress index bytes heven hconfig, if_neg (by omega)]
  exact congrFun Except.map_id _

theorem recordProgram_configWord (index : Nat) (more : Bool) (low high : Byte) :
    recordProgram index more (.data 0x1FFE#16 [low, high]) = .ok [.config (wordOfBytes low high)] := rfl

/-- Only an end-of-file record depends on whether records follow it (rule R187). -/
theorem recordProgram_more {record : InputRecord} (index : Nat) (more more' : Bool) (h : record ≠ .endOfFile) :
    recordProgram index more record = recordProgram index more' record := by
  cases record with
  | endOfFile => exact absurd rfl h
  | _ => rfl

/-! ### The words of a record -/

/-- What one word gives: its address is checked, then it is decoded (rules R184, R185). -/
def wordStatement (index : Nat) (word : Nat × Word16) : Except AssembleError ProgramRecord :=
  if lastProgramAddress < word.1 then .error (.addressOutOfRange index word.1)
  else statementOf index word.1 (decode word.2)

theorem wordStatement_of_outOfRange {address : Nat} (index : Nat) (word : Word16) (h : lastProgramAddress < address) :
    wordStatement index (address, word) = .error (.addressOutOfRange index address) := if_pos h

theorem wordStatement_of_inRange {address : Nat} (index : Nat) (word : Word16) (h : address ≤ lastProgramAddress) :
    wordStatement index (address, word) = statementOf index address (decode word) := if_neg (Nat.not_lt.2 h)

theorem statementOf_eq_ok_iff {index address : Nat} {reply : Except DecodeError Instruction} {record : ProgramRecord} :
    statementOf index address reply = .ok record ↔
      ∃ i, reply = .ok i ∧ record = .statement (BitVec.ofNat 8 address) i := by
  cases reply <;> simp [statementOf, eq_comm]

theorem wordStatement_eq_ok_iff {index address : Nat} {word : Word16} {record : ProgramRecord} :
    wordStatement index (address, word) = .ok record ↔ address ≤ lastProgramAddress ∧
      ∃ i, decode word = .ok i ∧ record = .statement (BitVec.ofNat 8 address) i := by
  by_cases h : lastProgramAddress < address
  · simp [wordStatement_of_outOfRange index word h, h]
  · rw [wordStatement_of_inRange index word (Nat.not_lt.1 h), statementOf_eq_ok_iff]
    exact (and_iff_right (Nat.not_lt.1 h)).symm

theorem assembleWords_cons (index : Nat) (word : Nat × Word16) (later : List (Nat × Word16)) :
    assembleWords index (word :: later) = (wordStatement index word).bind fun record =>
      (assembleWords index later).map (record :: ·) := by
  simp only [assembleWords, wordStatement]
  split
  · rfl
  · cases statementOf index word.1 (decode word.2) with
    | error e => rfl
    | ok record => cases assembleWords index later <;> rfl

theorem assembleWords_cons_of_error {index : Nat} {word : Nat × Word16} {e : AssembleError}
    (later : List (Nat × Word16)) (h : wordStatement index word = .error e) :
    assembleWords index (word :: later) = .error e := by
  rw [assembleWords_cons, h]
  rfl

theorem assembleWords_cons_of_ok {index : Nat} {word : Nat × Word16} {record : ProgramRecord}
    (later : List (Nat × Word16)) (h : wordStatement index word = .ok record) :
    assembleWords index (word :: later) = (assembleWords index later).map (record :: ·) := by
  rw [assembleWords_cons, h]
  rfl

/-! ### The obligations -/

/-- Settles O47: each clause is what the record gives when it is opened, or, for a first word above 0xFF, what that word
gives. -/
theorem structuralErrorsOfRecords : Obligations.StructuralErrorsOfRecords := by
  intro k address bytes rest
  refine ⟨fun hodd => ?_, fun hlength => ?_, fun low high => ?_, fun heven hconfig hodd => ?_,
    fun heven hconfig hlength hbytes hlast => ?_, fun heven hconfig => ?_, ?_, fun upper hupper => ?_, rfl,
    fun hrest => ?_, fun kind hkind => ?_⟩
  · exact assembleFrom_cons_of_error (recordProgram_of_openData_error _ (openData_of_odd k bytes hodd))
  · exact assembleFrom_cons_of_error (recordProgram_of_openData_error _ (openData_of_configLength k hlength))
  · rw [assembleFrom_cons_of_ok (recordProgram_configWord k _ low high), wordOfBytes_eq_shiftLeft_or]
    rfl
  · have hopen := openData_of_programAddress k bytes heven hconfig
    rw [if_pos hodd] at hopen
    exact assembleFrom_cons_of_error (recordProgram_of_openData_error _ hopen)
  · refine assembleFrom_cons_of_error ((recordProgram_data k _ heven hconfig hlength).trans ?_)
    match bytes with
    | [] => exact absurd rfl hbytes
    | [_] => exact absurd hlength (by decide : 1 % 2 ≠ 0)
    | low :: high :: later =>
      exact assembleWords_cons_of_error _ (wordStatement_of_outOfRange k (wordOfBytes low high) hlast)
  · exact assembleFrom_cons_of_nil (recordProgram_data k _ heven hconfig rfl)
  · exact assembleFrom_cons_of_nil rfl
  · exact assembleFrom_cons_of_error (recordProgram_of_openRecord_error (if_neg hupper))
  · exact assembleFrom_cons_of_error (recordProgram_of_openRecord_error (if_pos (by simpa using hrest)))
  · simp only [List.mem_cons, List.not_mem_nil, or_false] at hkind
    obtain rfl | rfl | rfl := hkind <;> rfl

/-- The program of records before others, none of them an end-of-file record, comes first in the whole program, and so
does their error. -/
theorem assembleFrom_append (k : Nat) (xs ys : List InputRecord) (hxs : ∀ x ∈ xs, x ≠ .endOfFile) :
    assembleFrom k (xs ++ ys) = (assembleFrom k xs).bind fun p => (assembleFrom (k + xs.length) ys).map (p ++ ·) := by
  induction xs generalizing k with
  | nil => exact (congrFun Except.map_id _).symm
  | cons x rest ih =>
    have hrest : ∀ y ∈ rest, y ≠ .endOfFile := fun y hy => hxs y (List.mem_cons_of_mem x hy)
    rw [List.cons_append, assembleFrom_cons, assembleFrom_cons, ih (k + 1) hrest,
      recordProgram_more k _ (!rest.isEmpty) (hxs x List.mem_cons_self), List.length_cons, Nat.add_right_comm k 1,
      ← Nat.add_assoc]
    cases recordProgram k (!rest.isEmpty) x with
    | error e => rfl
    | ok p =>
      cases assembleFrom (k + 1) rest with
      | error e => rfl
      | ok q => cases assembleFrom (k + rest.length + 1) ys <;> simp [Except.bind, Except.map]

/-- Settles O49, by the concatenation of the two parts. -/
theorem assemblyFollowsRecordOrder : Obligations.AssemblyFollowsRecordOrder := by
  intro k xs ys hxs
  rw [assembleFrom_append k xs ys hxs]
  refine ⟨fun e h => ?_, fun p h => ?_⟩
  all_goals
    rw [h]
    rfl

end Sys2Proof.Machine
end

section
/-! The words of a data record: the record is assembled exactly when each word gives a statement (O48), and otherwise its
first bad word gives the error (O56). -/

namespace Sys2Proof.Machine

/-! ### Lists of words -/

/-- Words are assembled exactly to the statements that they give one by one. -/
theorem assembleWords_eq_ok_iff {index : Nat} {words : List (Nat × Word16)} {p : Program} :
    assembleWords index words = .ok p ↔ List.Forall₂ (fun word record => wordStatement index word = .ok record) words p := by
  induction words generalizing p with
  | nil => simp [assembleWords, eq_comm]
  | cons word later ih =>
    rw [assembleWords_cons, List.forall₂_cons_left_iff]
    cases wordStatement index word with
    | error e => simp [Except.bind]
    | ok record =>
      simp only [Except.bind, ← ih]
      cases assembleWords index later <;> simp [Except.map, eq_comm]

/-- The first word without a statement gives the error of its list: no word after it is looked at (rule R177). -/
theorem assembleWords_of_firstBad {index n : Nat} {words : List (Nat × Word16)} {bad : Nat × Word16} {e : AssembleError}
    (hbad : words[n]? = some bad) (he : wordStatement index bad = .error e)
    (hbefore : ∀ (j : Nat) (word : Nat × Word16), j < n → words[j]? = some word →
      ∃ record, wordStatement index word = .ok record) :
    assembleWords index words = .error e := by
  induction words generalizing n with
  | nil => cases hbad
  | cons word later ih =>
    cases n with
    | zero =>
      cases hbad
      exact assembleWords_cons_of_error later he
    | succ m =>
      obtain ⟨record, hr⟩ := hbefore 0 word (Nat.succ_pos m) rfl
      have hlater := ih hbad fun j w hj hw => hbefore (j + 1) w (Nat.succ_lt_succ hj) hw
      rw [assembleWords_cons_of_ok later hr, hlater]
      rfl

/-- Each word of a record comes from a pair of its bytes. -/
theorem exists_bytes_of_addressedWords {start j : Nat} {bytes : List Byte} {word : Nat × Word16}
    (h : (addressedWords start bytes)[j]? = some word) :
    ∃ low high, bytes[2 * j]? = some low ∧ bytes[2 * j + 1]? = some high ∧
      word = (start + j, wordOfBytes low high) := by
  obtain ⟨hj, -⟩ := List.getElem?_eq_some_iff.1 h
  rw [addressedWords_length] at hj
  have hlow : bytes[2 * j]? = some bytes[2 * j] := List.getElem?_eq_getElem (by omega)
  have hhigh : bytes[2 * j + 1]? = some bytes[2 * j + 1] := List.getElem?_eq_getElem (by omega)
  rw [addressedWords_getElem? start bytes j hlow hhigh] at h
  exact ⟨_, _, hlow, hhigh, (Option.some.inj h).symm⟩

/-! ### The words of a record alone in its input -/

/-- A data record that is assembled has passed the checks before its words (rules R179, R183). -/
theorem even_of_recordProgram_data {index : Nat} {more : Bool} {address : Word16} {bytes : List Byte} {p : Program}
    (hconfig : address ≠ 0x1FFE#16) (h : recordProgram index more (.data address bytes) = .ok p) :
    address.toNat % 2 = 0 ∧ bytes.length % 2 = 0 := by
  by_cases hodd : address.toNat % 2 = 1
  · cases (recordProgram_of_openData_error more (openData_of_odd index bytes hodd)).symm.trans h
  · have heven : address.toNat % 2 = 0 := by omega
    have hopen := openData_of_programAddress index bytes heven hconfig
    by_cases hlength : bytes.length % 2 = 1
    · rw [if_pos hlength] at hopen
      cases (recordProgram_of_openData_error more hopen).symm.trans h
    · exact ⟨heven, by omega⟩

theorem assembleFrom_singleton (index : Nat) (record : InputRecord) :
    assembleFrom index [record] = recordProgram index false record := by
  cases h : recordProgram index false record with
  | error e => exact assembleFrom_cons_of_error h
  | ok p =>
    rw [assembleFrom_cons_of_ok h]
    simp [assembleFrom, Except.map]

/-- A data record at a program address is assembled exactly when each of its words gives the record at the word's place. -/
theorem assembleFrom_data_eq_ok_iff {index : Nat} {address : Word16} {bytes : List Byte} {p : Program}
    (hconfig : address ≠ 0x1FFE#16) :
    assembleFrom index [.data address bytes] = .ok p ↔
      address.toNat % 2 = 0 ∧ bytes.length = 2 * p.length ∧
      ∀ (j : Nat) (low high : Byte), bytes[2 * j]? = some low → bytes[2 * j + 1]? = some high →
        ∃ record, p[j]? = some record ∧
          wordStatement index (address.toNat / 2 + j, wordOfBytes low high) = .ok record := by
  rw [assembleFrom_singleton]
  constructor
  · intro h
    obtain ⟨heven, hlength⟩ := even_of_recordProgram_data hconfig h
    rw [recordProgram_data index false heven hconfig hlength, assembleWords_eq_ok_iff, List.forall₂_iff_get] at h
    obtain ⟨hsame, hword⟩ := h
    rw [addressedWords_length] at hsame
    refine ⟨heven, by omega, fun j low high hlow hhigh => ?_⟩
    obtain ⟨hj, hget⟩ := List.getElem?_eq_some_iff.1 (addressedWords_getElem? (address.toNat / 2) bytes j hlow hhigh)
    have hjp : j < p.length := by rwa [addressedWords_length, hsame] at hj
    refine ⟨p[j], List.getElem?_eq_getElem hjp, ?_⟩
    rw [← hget]
    exact hword j hj hjp
  · rintro ⟨heven, hlength, hword⟩
    rw [recordProgram_data index false heven hconfig (by omega), assembleWords_eq_ok_iff, List.forall₂_iff_get]
    refine ⟨by rw [addressedWords_length]; omega, fun j hj hjp => ?_⟩
    obtain ⟨low, high, hlow, hhigh, hget⟩ := exists_bytes_of_addressedWords (List.getElem?_eq_getElem hj)
    obtain ⟨record, hrecord, hok⟩ := hword j low high hlow hhigh
    obtain ⟨_, rfl⟩ := List.getElem?_eq_some_iff.1 hrecord
    rw [List.get_eq_getElem, hget]
    exact hok

/-! ### The obligations -/

/-- Settles O48: both directions are read off the words' statements. -/
theorem statementsAreDecodedWords : Obligations.StatementsAreDecodedWords := by
  intro k address bytes hconfig
  refine ⟨fun p h => ?_, fun instructions heven hlength hlast hdecode => ?_⟩
  · obtain ⟨-, hlength, hword⟩ := (assembleFrom_data_eq_ok_iff hconfig).1 h
    refine ⟨by omega, fun j low high hlow hhigh => ?_⟩
    obtain ⟨record, hrecord, hok⟩ := hword j low high hlow hhigh
    obtain ⟨hlast, i, hi, rfl⟩ := wordStatement_eq_ok_iff.1 hok
    rw [wordOfBytes_eq_shiftLeft_or] at hi
    exact ⟨hlast, i, hi, hrecord⟩
  · refine (assembleFrom_data_eq_ok_iff hconfig).2 ⟨heven, by rwa [List.length_mapIdx], fun j low high hlow hhigh => ?_⟩
    have hj : j < instructions.length := by
      obtain ⟨hlt, -⟩ := List.getElem?_eq_some_iff.1 hhigh
      omega
    have hi : instructions[j]? = some instructions[j] := List.getElem?_eq_getElem hj
    refine ⟨.statement (BitVec.ofNat 8 (address.toNat / 2 + j)) instructions[j], by rw [List.getElem?_mapIdx, hi]; rfl,
      wordStatement_eq_ok_iff.2 ⟨hlast j hj, _, ?_, rfl⟩⟩
    rw [wordOfBytes_eq_shiftLeft_or]
    exact hdecode j low high _ hlow hhigh hi

/-- A data record whose first `n` words decode at program addresses, and whose next word gives an error, gives that
error. -/
theorem assembleFrom_data_of_firstBad {k n : Nat} {address : Word16} {bytes : List Byte} (rest : List InputRecord)
    {low high : Byte} {e : AssembleError} (heven : address.toNat % 2 = 0) (hconfig : address ≠ 0x1FFE#16)
    (hlength : bytes.length % 2 = 0) (hlow : bytes[2 * n]? = some low) (hhigh : bytes[2 * n + 1]? = some high)
    (hbefore : ∀ (j : Nat) (l h : Byte), j < n → bytes[2 * j]? = some l → bytes[2 * j + 1]? = some h →
      ∃ i, decode ((h.setWidth 16 <<< 8) ||| l.setWidth 16) = .ok i)
    (hrange : ∀ j, j < n → address.toNat / 2 + j ≤ lastProgramAddress)
    (he : wordStatement k (address.toNat / 2 + n, wordOfBytes low high) = .error e) :
    assembleFrom k (.data address bytes :: rest) = .error e := by
  refine assembleFrom_cons_of_error ((recordProgram_data k _ heven hconfig hlength).trans ?_)
  refine assembleWords_of_firstBad (addressedWords_getElem? _ bytes n hlow hhigh) he fun j word hj hword => ?_
  obtain ⟨l, h, hl, hh, rfl⟩ := exists_bytes_of_addressedWords hword
  obtain ⟨i, hi⟩ := hbefore j l h hj hl hh
  rw [← wordOfBytes_eq_shiftLeft_or] at hi
  exact ⟨_, wordStatement_eq_ok_iff.2 ⟨hrange j hj, i, hi, rfl⟩⟩

/-- Settles O56: the next word gives the decoder's error, or the address check's, whatever it decodes to. -/
theorem firstBadWordEndsTheRecord : Obligations.FirstBadWordEndsTheRecord := by
  intro k n address bytes rest low high heven hconfig hlength hlow hhigh hbefore
  refine ⟨fun e hlast he => ?_, fun hstart hnext => ?_⟩
  · refine assembleFrom_data_of_firstBad rest heven hconfig hlength hlow hhigh hbefore
      (fun j hj => Nat.le_trans (by omega) hlast) ?_
    rw [wordStatement_of_inRange k _ hlast, wordOfBytes_eq_shiftLeft_or, he]
    rfl
  · refine assembleFrom_data_of_firstBad rest heven hconfig hlength hlow hhigh hbefore
      (fun j hj => (by omega : address.toNat / 2 + j ≤ 0xFF)) ?_
    rw [hnext]
    exact wordStatement_of_outOfRange k _ (by decide)

end Sys2Proof.Machine
end

section
/-! An assembly error is about one record of the input, whose index it carries (O50). -/

namespace Sys2Proof.Machine

/-- The kinds of record that an error can be about, with what its payload says of the record (rules R178 to R188). -/
def concerns : AssembleError → InputRecord → Prop
  | .trailingDataAfterEndOfFile _, record => record = .endOfFile
  | .unsupportedAddressExtension _ upper, record => record = .extendedLinearAddress upper
  | .unsupportedRecordKind _, record =>
    record = .startSegmentAddress ∨ record = .extendedSegmentAddress ∨ record = .startLinearAddress
  | .unalignedAddress _ address, record => ∃ bytes, record = .data address bytes
  | .oddByteCount _ length, record => ∃ address bytes, record = .data address bytes ∧ bytes.length = length
  | .badConfigWordLength _ length, record => ∃ bytes, record = .data 0x1FFE#16 bytes ∧ bytes.length = length
  | .addressOutOfRange _ _, record => ∃ address bytes, record = .data address bytes
  | .decoder _ _, record => ∃ address bytes, record = .data address bytes

/-- The record that gives an error is one the error can be about, and the error carries its index. -/
def blames (e : AssembleError) (index : Nat) (record : InputRecord) : Prop :=
  assembleErrorRecord e = index ∧ concerns e record

theorem blames_of_openData_error {index : Nat} {address : Word16} {bytes : List Byte} {e : AssembleError}
    (h : openData index address bytes = .error e) : blames e index (.data address bytes) := by
  by_cases hodd : address.toNat % 2 = 1
  · cases (openData_of_odd index bytes hodd).symm.trans h
    exact ⟨rfl, bytes, rfl⟩
  by_cases hconfig : address = 0x1FFE#16
  · subst hconfig
    by_cases hlength : bytes.length = 2
    · obtain ⟨low, high, rfl⟩ := List.length_eq_two.1 hlength
      cases (openData_configWord index low high).symm.trans h
    · cases (openData_of_configLength index hlength).symm.trans h
      exact ⟨rfl, bytes, rfl, rfl⟩
  · rw [openData_of_programAddress index bytes (by omega) hconfig] at h
    split at h <;> cases h
    exact ⟨rfl, address, bytes, rfl, rfl⟩

theorem blames_of_openRecord_error {index : Nat} {more : Bool} {record : InputRecord} {e : AssembleError}
    (h : openRecord index more record = .error e) : blames e index record := by
  cases record with
  | data address bytes => exact blames_of_openData_error h
  | endOfFile =>
    simp only [openRecord] at h
    split at h <;> cases h
    exact ⟨rfl, rfl⟩
  | extendedLinearAddress upper =>
    simp only [openRecord] at h
    split at h <;> cases h
    exact ⟨rfl, rfl⟩
  | startSegmentAddress =>
    cases h
    exact ⟨rfl, .inl rfl⟩
  | extendedSegmentAddress =>
    cases h
    exact ⟨rfl, .inr (.inl rfl)⟩
  | startLinearAddress =>
    cases h
    exact ⟨rfl, .inr (.inr rfl)⟩

theorem blames_of_wordStatement_error {index : Nat} {word : Nat × Word16} {e : AssembleError} (address : Word16)
    (bytes : List Byte) (h : wordStatement index word = .error e) : blames e index (.data address bytes) := by
  unfold wordStatement at h
  split at h
  · cases h
    exact ⟨rfl, address, bytes, rfl⟩
  · cases hd : decode word.2 <;> rw [hd] at h <;> cases h
    exact ⟨rfl, address, bytes, rfl⟩

theorem blames_of_assembleWords_error {index : Nat} {words : List (Nat × Word16)} {e : AssembleError} (address : Word16)
    (bytes : List Byte) (h : assembleWords index words = .error e) : blames e index (.data address bytes) := by
  induction words with
  | nil => cases h
  | cons word later ih =>
    cases hw : wordStatement index word with
    | error e' =>
      cases (assembleWords_cons_of_error later hw).symm.trans h
      exact blames_of_wordStatement_error address bytes hw
    | ok record =>
      rw [assembleWords_cons_of_ok later hw] at h
      cases hl : assembleWords index later with
      | error e' =>
        rw [hl] at h
        cases h
        exact ih hl
      | ok p =>
        rw [hl] at h
        cases h

/-- Only a data record queues words, the words of its bytes. -/
theorem words_of_openRecord {index : Nat} {more : Bool} {record : InputRecord} {emitted : Program}
    {words : List (Nat × Word16)} (h : openRecord index more record = .ok (emitted, words)) :
    words = [] ∨ ∃ address bytes, record = .data address bytes ∧ words = addressedWords (address.toNat / 2) bytes := by
  cases record with
  | data address bytes =>
    change openData index address bytes = _ at h
    obtain ⟨-, ho⟩ | ⟨-, -, ho⟩ | ⟨low, high, -, -, ho⟩ | ⟨-, ho⟩ | ⟨-, -, -, ho⟩ := openData_cases index address bytes
    all_goals cases ho.symm.trans h
    · exact .inl rfl
    · exact .inr ⟨address, bytes, rfl, rfl⟩
  | endOfFile =>
    simp only [openRecord] at h
    split at h <;> cases h
    exact .inl rfl
  | extendedLinearAddress upper =>
    simp only [openRecord] at h
    split at h <;> cases h
    exact .inl rfl
  | startSegmentAddress => cases h
  | extendedSegmentAddress => cases h
  | startLinearAddress => cases h

theorem blames_of_recordProgram_error {index : Nat} {more : Bool} {record : InputRecord} {e : AssembleError}
    (h : recordProgram index more record = .error e) : blames e index record := by
  cases ho : openRecord index more record with
  | error e' =>
    cases (recordProgram_of_openRecord_error ho).symm.trans h
    exact blames_of_openRecord_error ho
  | ok opened =>
    obtain ⟨emitted, words⟩ := opened
    rw [recordProgram, ho] at h
    cases hw : assembleWords index words with
    | error e' =>
      obtain rfl | ⟨address, bytes, rfl, -⟩ := words_of_openRecord ho
      · cases hw
      · simp only [Except.bind, hw] at h
        cases h
        exact blames_of_assembleWords_error address bytes hw
    | ok statements =>
      simp only [Except.bind, hw] at h
      cases h

/-- An error of the records from index `k` on is about one of them. -/
theorem blames_of_assembleFrom_error {k : Nat} {records : List InputRecord} {e : AssembleError}
    (h : assembleFrom k records = .error e) : ∃ j record, records[j]? = some record ∧ blames e (k + j) record := by
  induction records generalizing k with
  | nil => cases h
  | cons record rest ih =>
    cases hr : recordProgram k (!rest.isEmpty) record with
    | error e' =>
      cases (assembleFrom_cons_of_error hr).symm.trans h
      exact ⟨0, record, rfl, blames_of_recordProgram_error hr⟩
    | ok p =>
      rw [assembleFrom_cons_of_ok hr] at h
      cases hrest : assembleFrom (k + 1) rest with
      | error e' =>
        rw [hrest] at h
        cases h
        obtain ⟨j, later, hj, hb⟩ := ih hrest
        exact ⟨j + 1, later, hj, by rwa [Nat.add_right_comm, Nat.add_assoc] at hb⟩
      | ok q =>
        rw [hrest] at h
        cases h

/-- Settles O50: the input's records have the indices from 0 on. -/
theorem assemblyErrorsCarryARecordIndex : Obligations.AssemblyErrorsCarryARecordIndex := by
  intro records e h
  obtain ⟨j, record, hrecord, hindex, hconcerns⟩ := blames_of_assembleFrom_error h
  rw [Nat.zero_add] at hindex
  refine ⟨record, by rw [hindex, hrecord], ?_⟩
  cases e <;> exact hconcerns

end Sys2Proof.Machine
end

section
/-! The environment's steps: what one does to the input word and the returned value (O55), and that they reach what
`assemble` gives (O51). -/

namespace Sys2Proof.Machine

/-! ### One step of a call of `assemble` -/

theorem step_of_running {s : State} {run : AssemblerRun} (h : s.assembler = .running run) :
    step s = stepAssembler run s := by
  simp only [step, h]

theorem stepAssembler_of_noWord {run : AssemblerRun} {s : State} (h : run.words = []) :
    stepAssembler run s = .next (beginRecord run s) := by
  simp only [stepAssembler, h]

theorem stepAssembler_of_outOfRange {run : AssemblerRun} {address : Nat} {word : Word16} {later : List (Nat × Word16)}
    {s : State} (hwords : run.words = (address, word) :: later) (h : lastProgramAddress < address) :
    stepAssembler run s = .next (s.withAssembler (.returned (.error (.addressOutOfRange run.current address)))) := by
  simp only [stepAssembler, hwords, if_pos h]

/-- A queued word in the program space is put on `word_i`, and `decode` of it is returned and collected (rule R185). -/
theorem stepAssembler_of_inRange {run : AssemblerRun} {address : Nat} {word : Word16} {later : List (Nat × Word16)}
    {s : State} (hwords : run.words = (address, word) :: later) (h : address ≤ lastProgramAddress) :
    stepAssembler run s =
      .next (collectStatement run address later ((s.presents word).returns (decode word))) :=
  stepAssembler_of_queued hwords h (stepBlock_eq_returns_decode (s.presents word))

/-- Using a returned value changes the environment and nothing else of the state. -/
theorem collectStatement_frame (run : AssemblerRun) (address : Nat) (later : List (Nat × Word16)) {s : State}
    {reply : Except DecodeError Instruction} (h : s.reply = some reply) :
    ∃ a, collectStatement run address later s = s.withAssembler a := by
  obtain ⟨e, -, hc⟩ | ⟨i, -, hc⟩ := collectStatement_cases run address later s reply h
  all_goals exact ⟨_, hc⟩

/-- Settles O55: each action but the presenting of a word changes the environment alone. -/
theorem onlyTheBlockReplies : Obligations.OnlyTheBlockReplies := by
  intro s t run hrun hstep
  rw [step_of_running hrun] at hstep
  refine ⟨fun hwords => ?_, fun address word later hwords hlast => ?_, fun address word later hwords hlast => ?_⟩
  · obtain ⟨a, ha⟩ := beginRecord_frame run s
    rw [stepAssembler_of_noWord hwords, ha] at hstep
    cases hstep
    exact ⟨rfl, rfl, rfl⟩
  · rw [stepAssembler_of_outOfRange hwords hlast] at hstep
    cases hstep
    exact ⟨rfl, rfl, rfl⟩
  · obtain ⟨a, ha⟩ := collectStatement_frame run address later
      (State.returns_reply (s.presents word) (decode word))
    rw [stepAssembler_of_inRange hwords hlast, ha] at hstep
    cases hstep
    exact ⟨rfl, rfl, rfl⟩

/-! ### What a run will return -/

/-- What a call of `assemble` in progress is to return: what is emitted, then the statements of the queued words, then the
program of the records not yet begun. -/
def AssemblerRun.result (run : AssemblerRun) : Except AssembleError Program :=
  (assembleWords run.current run.words).bind fun statements =>
    (assembleFrom run.next run.rest).map (run.out ++ statements ++ ·)

/-- A bound on the steps that a call of `assemble` in progress still takes. -/
def AssemblerRun.stepsLeft (run : AssemblerRun) : Nat :=
  run.words.length + run.rest.length + wordsIn run.rest + 1

/-- An environment on the way from `run` to its result: it has returned it, or goes on to it with fewer steps left. -/
def AssemblerRun.advancesTo (run : AssemblerRun) (a : Assembler) : Prop :=
  a = .returned run.result ∨
    ∃ run' : AssemblerRun, a = .running run' ∧ run'.result = run.result ∧ run'.stepsLeft < run.stepsLeft

/-- The words that a record queues are among those counted in the input. -/
theorem words_length_of_openRecord {index : Nat} {more : Bool} {record : InputRecord} {emitted : Program}
    {words : List (Nat × Word16)} (rest : List InputRecord) (h : openRecord index more record = .ok (emitted, words)) :
    words.length + wordsIn rest ≤ wordsIn (record :: rest) := by
  obtain rfl | ⟨address, bytes, rfl, rfl⟩ := words_of_openRecord h
  · cases record <;> simp [wordsIn]
  · rw [addressedWords_length, wordsIn]

theorem advancesTo_beginRecord {run : AssemblerRun} (s : State) (hwords : run.words = []) :
    run.advancesTo (beginRecord run s).assembler := by
  obtain ⟨next, current, words, rest, out⟩ := run
  obtain rfl : words = [] := hwords
  cases rest with
  | nil => exact .inl (by simp [beginRecord, AssemblerRun.result, assembleWords, assembleFrom, Except.bind, Except.map])
  | cons record rest =>
    cases ho : openRecord next (!rest.isEmpty) record with
    | error e =>
      have hfail := assembleFrom_cons_of_error (recordProgram_of_openRecord_error ho)
      exact .inl (by simp [beginRecord, ho, AssemblerRun.result, assembleWords, hfail, Except.bind, Except.map])
    | ok opened =>
      obtain ⟨emitted, words⟩ := opened
      refine .inr ⟨⟨next + 1, next, words, rest, out ++ emitted⟩, by simp [beginRecord, ho], ?_, ?_⟩
      · simp only [AssemblerRun.result, assembleFrom_cons, recordProgram, ho, Except.bind, assembleWords]
        cases assembleWords next words with
        | error e => rfl
        | ok statements => cases assembleFrom (next + 1) rest <;> simp [Except.map]
      · have hcount := words_length_of_openRecord rest ho
        simp only [AssemblerRun.stepsLeft, List.length_cons, List.length_nil]
        omega

theorem advancesTo_collectStatement {run : AssemblerRun} {address : Nat} {word : Word16} {later : List (Nat × Word16)}
    {s : State} (hwords : run.words = (address, word) :: later) (hlast : address ≤ lastProgramAddress)
    (hreply : s.reply = some (decode word)) : run.advancesTo (collectStatement run address later s).assembler := by
  have hword := wordStatement_of_inRange run.current word hlast
  obtain ⟨e, he, hc⟩ | ⟨i, hi, hc⟩ := collectStatement_cases run address later s _ hreply
  · rw [he] at hword
    refine .inl ?_
    rw [hc, AssemblerRun.result, hwords, assembleWords_cons_of_error later hword]
    rfl
  · rw [hi] at hword
    refine .inr ⟨_, by rw [hc]; rfl, ?_, ?_⟩
    · rw [AssemblerRun.result, AssemblerRun.result, hwords, assembleWords_cons_of_ok later hword]
      cases assembleWords run.current later with
      | error e => rfl
      | ok statements => simp [Except.bind, Except.map]
    · simp [AssemblerRun.stepsLeft, hwords]

/-- A step of a call of `assemble` brings it nearer to its result. -/
theorem exists_step_advancesTo {s : State} {run : AssemblerRun} (h : s.assembler = .running run) :
    ∃ t, step s = .next t ∧ run.advancesTo t.assembler := by
  rw [step_of_running h]
  cases hwords : run.words with
  | nil => exact ⟨_, stepAssembler_of_noWord hwords, advancesTo_beginRecord s hwords⟩
  | cons queued later =>
    obtain ⟨address, word⟩ := queued
    by_cases hlast : lastProgramAddress < address
    · refine ⟨_, stepAssembler_of_outOfRange hwords hlast, .inl ?_⟩
      rw [AssemblerRun.result, hwords,
        assembleWords_cons_of_error later (wordStatement_of_outOfRange run.current word hlast)]
      rfl
    · have hinRange : address ≤ lastProgramAddress := Nat.not_lt.1 hlast
      exact ⟨_, stepAssembler_of_inRange hwords hinRange, advancesTo_collectStatement hwords hinRange rfl⟩

/-! ### Runs -/

theorem run_succ_of_step {s t : State} (n : Nat) (h : step s = .next t) :
    Host.Core.run Sys2Proof.core (n + 1) s = Host.Core.run Sys2Proof.core n t := by
  have hcore : Sys2Proof.core.step s = .next t := h
  simp only [Host.Core.run, hcore]

/-- Once a call of `assemble` has returned, steps are direct calls, and what it returned stays. -/
theorem exists_run_of_returned {s : State} {result : Except AssembleError Program} (n : Nat)
    (h : s.assembler = .returned result) :
    ∃ t : State, Host.Core.run Sys2Proof.core n s = .next t ∧ t.assembler = .returned result := by
  induction n generalizing s with
  | zero => exact ⟨s, rfl, h⟩
  | succ n ih =>
    have hdirect : directCall s := fun run hrun => by simp [h] at hrun
    have hstep : step s = .next (s.returns (decode s.wordI)) :=
      (step_of_directCall hdirect).trans (stepBlock_eq_returns_decode s)
    rw [run_succ_of_step n hstep]
    exact ih h

/-- A call of `assemble` in progress returns its result within the steps left. -/
theorem exists_run_of_running {s : State} {run : AssemblerRun} (n : Nat) (h : s.assembler = .running run)
    (hn : run.stepsLeft ≤ n) :
    ∃ t : State, Host.Core.run Sys2Proof.core n s = .next t ∧ t.assembler = .returned run.result := by
  induction n generalizing s run with
  | zero => exact absurd hn (Nat.not_succ_le_zero _)
  | succ n ih =>
    obtain ⟨t, hstep, hreturned | ⟨run', hrunning, hresult, hfewer⟩⟩ := exists_step_advancesTo h
    · rw [run_succ_of_step n hstep]
      exact exists_run_of_returned n hreturned
    · rw [run_succ_of_step n hstep, ← hresult]
      exact ih hrunning (by omega)

/-- Settles O51: when a call is begun, its result is `assemble` of the records. -/
theorem assemblerRunReturnsAssemble : Obligations.AssemblerRunReturnsAssemble := by
  intro s records n hn
  have hleft : (⟨0, 0, [], records, []⟩ : AssemblerRun).stepsLeft ≤ n := by simpa [AssemblerRun.stepsLeft] using hn
  have hresult : (⟨0, 0, [], records, []⟩ : AssemblerRun).result = assemble records := congrFun Except.map_id _
  rw [← hresult]
  exact exists_run_of_running n (State.withRecords_assembler s records) hleft

end Sys2Proof.Machine
end

section
/-! The errors of `decode` (rules R128, R131), and the words that fail with InvalidRegister (O32) and with
InvalidTrisSelector (O33). -/

namespace Sys2Proof.Machine

/-! ### The errors of the codecs -/

theorem selectorLegal_eq_false_iff (n : BitVec 3) : selectorLegal n = false ↔ n.toNat ≤ 5 := by
  revert n
  decide

theorem trisOperand_eq_error_iff (n : BitVec 3) (e : DecodeError) :
    trisOperand n = .error e ↔ selectorLegal n = false ∧ e = .invalidTrisSelector n := by
  by_cases h6 : n = 6#3
  · subst h6
    simp [trisOperand, selectorLegal]
  · by_cases h7 : n = 7#3
    · subst h7
      simp [trisOperand, selectorLegal]
    · have hillegal : selectorLegal n = false := by simp [selectorLegal, h6, h7]
      rw [trisOperand_of_illegal h6 h7, Except.error.injEq, and_iff_right hillegal, eq_comm]

/-- The shapes with a register field (rules R109 to R111). -/
abbrev hasRegisterField (tag : OperandShape) : Prop :=
  tag = .file ∨ tag = .fileAndDestination ∨ tag = .fileAndBitNumber

/-- A codec with a register field fails as the register check does (rules R109 to R111). -/
theorem registerCodec_eq_error_iff {tag : OperandShape} (htag : hasRegisterField tag) (ob : Word12)
    (e : DecodeError) : codecDecode tag ob = .error e ↔
      registerLegal (registerField ob) = false ∧ e = .invalidRegister (registerField ob) := by
  obtain ⟨operandOf, hcodec⟩ := codecDecode_register ob htag
  rw [hcodec, ← regfile_eq_error_iff]
  cases regfile (registerField ob) <;> simp [Except.map]

/-- The codecs fail on an illegal register or an illegal selector, and with no other error (rules R199, R200). -/
theorem codecDecode_eq_error_iff (tag : OperandShape) (ob : Word12) (e : DecodeError) :
    codecDecode tag ob = .error e ↔
      (hasRegisterField tag ∧ registerLegal (registerField ob) = false ∧ e = .invalidRegister (registerField ob)) ∨
      (tag = .tris ∧ selectorLegal (selectorField ob) = false ∧ e = .invalidTrisSelector (selectorField ob)) := by
  cases tag with
  | noOperands | literal | goto => simp [codecDecode, literalDecode, gotoDecode]
  | file | fileAndDestination | fileAndBitNumber =>
    rw [registerCodec_eq_error_iff (by decide)]
    simp [hasRegisterField]
  | tris =>
    rw [codecDecode, trisDecode, trisOperand_eq_error_iff]
    simp

/-! ### The errors of `decode` -/

/-- `decode` fails where no entry matches, and where the codec of the matched entry's shape does. -/
theorem decode_eq_error_iff (word : Word16) (e : DecodeError) : decode word = .error e ↔
    (matchId (significantBits word) = none ∧ e = .unknownOpcode (significantBits word)) ∨
    ∃ id, matchId (significantBits word) = some id ∧
      codecDecode (opcodeBitPattern id).operandShape (significantBits word) = .error e := by
  cases hm : matchId (significantBits word) with
  | none => simp [(decode_eq_unknownOpcode_iff word _).2 ⟨rfl, hm⟩, eq_comm]
  | some id =>
    rw [decode_of_matchId hm]
    cases hc : codecDecode (opcodeBitPattern id).operandShape (significantBits word) <;> simp [Except.map, hc]

theorem decode_eq_invalidRegister_iff (word : Word16) (n : BitVec 5) : decode word = .error (.invalidRegister n) ↔
    n = registerField (significantBits word) ∧ registerLegal n = false ∧
      ∃ id, matchId (significantBits word) = some id ∧ hasRegisterField (opcodeBitPattern id).operandShape := by
  simp only [decode_eq_error_iff, codecDecode_eq_error_iff, reduceCtorEq, and_false, false_or, or_false,
    DecodeError.invalidRegister.injEq]
  constructor
  · rintro ⟨id, hm, hshape, hillegal, rfl⟩
    exact ⟨rfl, hillegal, id, hm, hshape⟩
  · rintro ⟨rfl, hillegal, id, hm, hshape⟩
    exact ⟨id, hm, hshape, hillegal, rfl⟩

theorem eq_tris_of_operandShape {id : OpcodeId} (h : (opcodeBitPattern id).operandShape = .tris) : id = .tris := by
  cases id
  case tris => rfl
  all_goals cases h

theorem decode_eq_invalidTrisSelector_iff (word : Word16) (n : BitVec 3) :
    decode word = .error (.invalidTrisSelector n) ↔ n = selectorField (significantBits word) ∧
      matchId (significantBits word) = some .tris ∧ selectorLegal (selectorField (significantBits word)) = false := by
  simp only [decode_eq_error_iff, codecDecode_eq_error_iff, reduceCtorEq, and_false, false_or,
    DecodeError.invalidTrisSelector.injEq]
  constructor
  · rintro ⟨id, hm, hshape, hillegal, hn⟩
    obtain rfl := eq_tris_of_operandShape hshape
    exact ⟨hn, hm, hillegal⟩
  · rintro ⟨hn, hm, hillegal⟩
    exact ⟨.tris, hm, rfl, hillegal, hn⟩

/-! ### The words -/

theorem matchOpcode_eq_entryOf_iff (w : Word12) (id : OpcodeId) :
    matchOpcode w = some (entryOf id) ↔ matchId w = some id := by
  have hinjective : Function.Injective entryOf := fun _ _ h => congrArg Opcode.id h
  rw [matchOpcode_eq_map, Option.map_eq_some_iff]
  simp [hinjective.eq_iff]

/-- The opcodes with a register field are the twenty of rule R199. -/
theorem mem_registerOpcodes_iff (id : OpcodeId) :
    id ∈ ([.addwf, .andwf, .clrf, .comf, .decf, .decfsz, .incf, .incfsz, .iorwf, .movf, .movwf, .rlf, .rrf, .subwf,
        .swapf, .xorwf, .bcf, .bsf, .btfsc, .btfss] : List OpcodeId) ↔
      hasRegisterField (opcodeBitPattern id).operandShape := by
  cases id <;> decide

/-- Settles O32: the matched entry has a register field, and the register check refuses its number. -/
theorem invalidRegisterExactly : Obligations.InvalidRegisterExactly := by
  intro word n
  rw [decode_eq_invalidRegister_iff, registerLegal_eq_false_iff, registerField_significantBits, and_assoc]
  simp only [mem_registerOpcodes_iff, matchOpcode_eq_entryOf_iff, and_comm, significantBits]

theorem selectorField_significantBits (word : Word16) :
    selectorField (significantBits word) = word.extractLsb' 0 3 :=
  extractLsb'_significantBits word (by decide)

/-- Of the eight words that tris accepts, nop, option, sleep and clrwdt take four and GPIO and CMCON0 are two. -/
theorem refusedSelector_below_eight : ∀ n < 8, selectorMatch n = .tris →
    selectorLegal (selectorField (BitVec.ofNat 12 n)) = false →
    BitVec.ofNat 12 n = 0x001#12 ∨ BitVec.ofNat 12 n = 0x005#12 := by decide

/-- The words that match tris and have an illegal selector (rule R200). -/
theorem matchId_tris_and_illegal_iff (w : Word12) :
    matchId w = some .tris ∧ selectorLegal (selectorField w) = false ↔ w = 0x001#12 ∨ w = 0x005#12 := by
  constructor
  · rintro ⟨hm, hillegal⟩
    have hlt := lt_eight_of_accepts_tris (accepts_of_matchId hm)
    have htris : selectorMatch w.toNat = .tris := Option.some.inj ((matchId_of_lt_eight hlt).symm.trans hm)
    have hw : BitVec.ofNat 12 w.toNat = w := by simp
    have hwords := refusedSelector_below_eight w.toNat hlt htris
    rw [hw] at hwords
    exact hwords hillegal
  · rintro (rfl | rfl)
    all_goals decide

/-- Settles O33: `decode` fails so on the words of tris with an illegal selector, and the codec on every illegal one. -/
theorem invalidTrisSelectorExactly : Obligations.InvalidTrisSelectorExactly := by
  refine ⟨fun word n => ?_, fun ob n => ?_⟩
  · rw [decode_eq_invalidTrisSelector_iff, matchId_tris_and_illegal_iff, selectorField_significantBits, significantBits]
  · rw [codecDecode, trisDecode, trisOperand_eq_error_iff, DecodeError.invalidTrisSelector.injEq,
      selectorLegal_eq_false_iff]
    constructor
    · rintro ⟨hle, rfl⟩
      exact ⟨rfl, hle⟩
    · rintro ⟨rfl, hle⟩
      exact ⟨hle, rfl⟩

end Sys2Proof.Machine
end

section
/-! The order of the table (O18, rules R96, R227). Whatever the order, an entry other than tris that accepts a word is the
one that the shipped table has for it, so an order matters through the place of tris alone. -/

namespace Sys2Proof.Machine

theorem nodup_TABLE : TABLE.Nodup := nodup_TABLE_names.of_map

/-- An entry of the table that accepts a word is the shipped table's match, or it is tris. -/
theorem eq_tris_or_matchOpcode_of_accepts {op : Opcode} {w : Word12} (hmem : op ∈ TABLE)
    (h : accepts op.bitPattern w = true) : op = entryOf .tris ∨ matchOpcode w = some op := by
  have hop := eq_entryOf_of_mem hmem
  by_cases hid : op.id = .tris
  · exact .inl (hop.trans (congrArg entryOf hid))
  · rw [hop] at h ⊢
    exact .inr ((matchOpcode_eq_entryOf_iff w op.id).2 (matchId_of_accepts h hid))

/-- A reordered table gives the shipped table's match, or it gives tris. -/
theorem matchIn_of_perm {table : List Opcode} (hperm : table.Perm TABLE) (w : Word12) :
    matchIn table w = some (entryOf .tris) ∨ matchIn table w = matchOpcode w := by
  cases hm : matchIn table w with
  | none =>
    have hnone : matchOpcode w = none := List.find?_eq_none.2 fun op hop => by
      simpa using matchIn_none hm op (hperm.mem_iff.2 hop)
    exact .inr hnone.symm
  | some op =>
    obtain ⟨hop, haccepts⟩ := matchIn_some hm
    obtain rfl | hmatch := eq_tris_or_matchOpcode_of_accepts (hperm.mem_iff.1 hop) haccepts
    · exact .inl rfl
    · exact .inr hmatch.symm

section
variable {before after : List Opcode} (hperm : (before ++ entryOf .tris :: after).Perm TABLE)
include hperm

theorem nodup_of_split_perm : (before ++ entryOf .tris :: after).Nodup := hperm.nodup_iff.2 nodup_TABLE

/-- A reordered table gives tris for the words of tris that no entry before it accepts. -/
theorem matchIn_eq_tris_iff (w : Word12) : matchIn (before ++ entryOf .tris :: after) w = some (entryOf .tris) ↔
    accepts (opcodeBitPattern .tris) w = true ∧ matchIn before w = none := by
  have happend : matchIn (before ++ entryOf .tris :: after) w =
      (matchIn before w).or (matchIn (entryOf .tris :: after) w) := List.find?_append
  constructor
  · intro h
    refine ⟨(matchIn_some h).2, ?_⟩
    cases hb : matchIn before w with
    | none => rfl
    | some op =>
      rw [happend, hb, Option.some_or] at h
      obtain rfl := Option.some.inj h
      have hnotMem := (List.nodup_middle.1 (nodup_of_split_perm hperm)).notMem
      exact absurd (List.mem_append_left after (matchIn_some hb).1) hnotMem
  · rintro ⟨haccepts, hb⟩
    rw [happend, hb, Option.none_or]
    exact List.find?_cons_of_pos haccepts

/-- Where the four shorter entries stand before tris, tris is given for no word of theirs (rule R96). -/
theorem matchOpcode_of_matchIn_eq_tris
    (hfirst : ∀ id ∈ [OpcodeId.nop, .option, .sleep, .clrwdt], entryOf id ∈ before) {w : Word12}
    (h : matchIn (before ++ entryOf .tris :: after) w = some (entryOf .tris)) :
    matchOpcode w = some (entryOf .tris) := by
  obtain ⟨haccepts, hbefore⟩ := (matchIn_eq_tris_iff hperm w).1 h
  have hm := matchId_of_lt_eight (lt_eight_of_accepts_tris haccepts)
  rw [matchOpcode_eq_entryOf_iff, hm]
  by_contra hne
  have hfour : selectorMatch w.toNat ∈ [OpcodeId.nop, .option, .sleep, .clrwdt] := by
    obtain (⟨-, hs⟩ | ⟨-, hs⟩ | ⟨-, hs⟩ | ⟨-, hs⟩) | hs := selectorMatch_cases w.toNat
    case inr => exact absurd (congrArg some hs) hne
    all_goals simp [hs]
  have hrefused : accepts (opcodeBitPattern (selectorMatch w.toNat)) w = false :=
    matchIn_none hbefore _ (hfirst _ hfour)
  simp [accepts_of_matchId hm] at hrefused

/-- An entry behind tris loses the words that it shares with it (rule R227). -/
theorem matchIn_eq_tris_of_mem_after {id : OpcodeId} (hafter : entryOf id ∈ after) {w : Word12}
    (htris : accepts (opcodeBitPattern .tris) w = true) (hm : matchId w = some id) :
    matchIn (before ++ entryOf .tris :: after) w = some (entryOf .tris) := by
  refine (matchIn_eq_tris_iff hperm w).2 ⟨htris, ?_⟩
  cases hb : matchIn before w with
  | none => rfl
  | some op =>
    obtain ⟨hop, haccepts⟩ := matchIn_some hb
    have hdisjoint := List.disjoint_of_nodup_append (nodup_of_split_perm hperm)
    obtain rfl | hmatch := eq_tris_or_matchOpcode_of_accepts (hperm.mem_iff.1 (List.mem_append_left _ hop)) haccepts
    · exact absurd List.mem_cons_self (hdisjoint hop)
    · obtain rfl := Option.some.inj (hmatch.symm.trans ((matchOpcode_eq_entryOf_iff w id).2 hm))
      exact absurd (List.mem_cons_of_mem _ hafter) (hdisjoint hop)

end

/-- The words of the four shorter entries are words of tris with an illegal selector (rules R96, R227). -/
theorem selectorWord_of_shorterEntry :
    ∀ p ∈ [(OpcodeId.nop, 0#3), (.option, 2#3), (.sleep, 3#3), (.clrwdt, 4#3)],
      accepts (opcodeBitPattern .tris) (significantBits (p.2.setWidth 16)) = true ∧
      matchId (significantBits (p.2.setWidth 16)) = some p.1 ∧
      codecDecode .tris (operandBits (opcodeBitPattern .tris) (significantBits (p.2.setWidth 16))) =
        .error (.invalidTrisSelector p.2) := by
  decide

/-- The error of the matched entry's codec is that of `decode`, on any table (rule R131). -/
theorem decodeIn_of_codecError {table : List Opcode} {word : Word16} {op : Opcode} {e : DecodeError}
    (hm : matchIn table (significantBits word) = some op)
    (h : codecDecode op.bitPattern.operandShape (operandBits op.bitPattern (significantBits word)) = .error e) :
    decodeIn table word = .error e := by
  simp only [decodeIn, hm, h]

/-- Settles O18: a reordered table differs from the shipped one where it gives tris, which is where tris comes before the
shorter entry. -/
theorem tableOrderMattersForTrisOnly : Obligations.TableOrderMattersForTrisOnly := by
  refine fun before after hperm => ⟨fun hfirst w => ?_, fun p hp hafter => ?_⟩
  · obtain htris | hsame := matchIn_of_perm hperm w
    · rw [htris, matchOpcode_of_matchIn_eq_tris hperm hfirst htris]
    · exact hsame
  · obtain ⟨htris, hm, hrefused⟩ := selectorWord_of_shorterEntry p hp
    exact decodeIn_of_codecError (matchIn_eq_tris_of_mem_after hperm hafter htris hm) hrefused

end Sys2Proof.Machine
end

section
/-! The state that a run leaves behind: a call depends on its word alone (O36), no step changes what names the outputs that
are not valid (O57), and the state of reset is good (O52). -/

namespace Sys2Proof.Machine

/-- What a direct call returned before is no part of what it returns now (rule R206). -/
theorem reply_of_step_presents {s t : State} {word : Word16} (hs : directCall s)
    (h : step (s.presents word) = .next t) : t.reply = some (decode word) := by
  cases (stepReturnsWhatDecodeGives (s.presents word) hs).symm.trans h
  rfl

/-- Settles O36: each of the two calls returns `decode` of the word. -/
theorem errorLeavesNoTrace : Obligations.ErrorLeavesNoTrace := by
  intro s s' t t' word hs hs' ht ht'
  rw [reply_of_step_presents hs ht, reply_of_step_presents hs' ht']
  exact ⟨rfl, rfl⟩

theorem freeIndex_of_step {s t : State} (h : step s = .next t) : t.freeIndex = s.freeIndex := by
  by_cases hdirect : directCall s
  · cases (stepReturnsWhatDecodeGives s hdirect).symm.trans h
    rfl
  · obtain ⟨run, hrun⟩ : ∃ run, s.assembler = .running run := by simpa [directCall] using hdirect
    obtain ⟨hnoWord, houtOfRange, hinRange⟩ := onlyTheBlockReplies s t run hrun h
    cases hwords : run.words with
    | nil =>
      obtain ⟨-, -, hfree⟩ := hnoWord hwords
      exact hfree
    | cons queued later =>
      obtain ⟨address, word⟩ := queued
      obtain hlast | hlast := Nat.lt_or_ge 0xFF address
      · obtain ⟨-, -, hfree⟩ := houtOfRange address word later hwords hlast
        exact hfree
      · obtain ⟨-, -, hfree⟩ := hinRange address word later hwords hlast
        exact hfree

/-- Along a run the outputs that are not valid stay the same functions of the word (rule R223). -/
theorem freeIndex_of_run {s t : State} {n : Nat} (h : Host.Core.run Sys2Proof.core n s = .next t) :
    t.freeIndex = s.freeIndex := by
  induction n generalizing s with
  | zero =>
    cases h
    rfl
  | succ n ih =>
    obtain ⟨u, hu⟩ := everyStepAnswers s
    rw [run_succ_of_step n hu] at h
    exact (ih h).trans (freeIndex_of_step hu)

/-- Settles O57: the outputs depend on the word and on `freeIndex`, which a run leaves as it was. -/
theorem outputsAreFunctionsOfTheWord : Obligations.OutputsAreFunctionsOfTheWord := by
  intro s t n word h
  simp only [State.ports, State.presents_wordI, State.presents_freeIndex, freeIndex_of_run h]

/-- Settles O52: nothing has been returned or emitted, so the invariant asks nothing of the state of reset. -/
theorem resetIsGood : Obligations.ResetIsGood :=
  ⟨(State.good_iff State.reset).2 ⟨rfl, rfl⟩, rfl, rfl⟩

end Sys2Proof.Machine
end
